-- ==== Sys2Proof/Word.lean ====
section
/-! DEFINITION. The unsigned values of the block (spec 00_scope R6): bytes, 16-bit and 32-bit values, and the two
halves of a 16-bit value. Nothing in the block is signed. -/

namespace Sys2Proof

/-- `u8` of R6. -/
abbrev Byte := BitVec 8

/-- `u16` of R6. -/
abbrev Half := BitVec 16

/-- `u32` of R6. -/
abbrev Word := BitVec 32

end Sys2Proof
end

