-- ==== Sys2Proof/Config.lean ====
section
/-! DEFINITION. What an implementation of the block fixes (spec 00_scope R4, the OPEN rows) and the one free value.
None of these has a value inside Lean: a statement holds whatever they are. -/

namespace Sys2Proof

/-- By how much `POLL_MS` exceeds its least legal value 1 (R4: `POLL_MS >= 1`). Log entry 19. -/
opaque Config.pollMsExcess : Nat

/-- `POLL_MS`, the longest wait of one receive poll in ms; OPEN, at least 1 (R4, decision D14). Log entry 19. -/
def Config.pollMs : Nat := Config.pollMsExcess + 1

/-- `TX_DRAIN_MAX_MS`, the longest wait for transmit completion in ms; OPEN (R4, decision D15). Log entry 19. -/
opaque Config.txDrainMaxMs : Nat

/-- `LCW`, the width of the line-configuration word; OPEN (R4, decision D23). It is the width of the type of that word
wherever one stands: at the ports, in `cfg.line_cfg`, in the instruction. Log entry 18. -/
opaque Config.lcw : Nat

/-- FREE VALUE: what DECODE leaves in `t.result` where the spec says "any value" (R164, R165; 93 U1, U2), at the n-th
draw. DESIGN CHOICE: it depends on n alone. Log entry 7. -/
opaque Config.undefinedResult : Nat → Word

end Sys2Proof
end

