-- ==== Sys2Proof/Machine/Crc.lean ====
section
/-! DEFINITION. The CRC Engine (spec 40_crc_engine R100 to R107): pure functions, no state. -/

namespace Sys2Proof.Machine

/-- `CRC_SEED` (R4). -/
def crcSeed : Half := 0xFFFF

/-- `CRC_POLY`, the reflected polynomial (R4). -/
def crcPoly : Half := 0xA001

/-- One shift/XOR step of R101: bit 0 is tested, the value is shifted right, the constant enters after the shift.
PRESUMED order inside a step (general knowledge G1, confirmed by the source's vector): log entry 22. -/
def crcShift (c : Half) : Half :=
  if c.getLsbD 0 then (c >>> 1) ^^^ crcPoly else c >>> 1

/-- `n` steps of R101. -/
def crcShifts : Nat → Half → Half
  | 0, c => c
  | n + 1, c => crcShifts n (crcShift c)

/-- `CRC16_UPDATE(crc, b)` of R101: the byte enters the low eight bits, then eight steps. -/
def crc16Update (crc : Half) (b : Byte) : Half := crcShifts 8 (crc ^^^ b.setWidth 16)

/-- `CRC16(bytes)` of R102: the fold from the seed, first byte first. -/
def crc16 (bytes : List Byte) : Half := bytes.foldl crc16Update crcSeed

/-- `lo8` of R6. -/
def lo8 (v : Half) : Byte := v.extractLsb' 0 8

/-- `hi8` of R6. -/
def hi8 (v : Half) : Byte := v.extractLsb' 8 8

/-- The two CRC bytes that follow `body` on the wire, low byte first (R104). -/
def crcTrailer (body : List Byte) : List Byte := [lo8 (crc16 body), hi8 (crc16 body)]

end Sys2Proof.Machine
end

