-- ==== Sys2Proof/Machine/Operands.lean ====
section
/-! DEFINITION. The operand forms: the fixed parameters of R4, the request frame (spec 41_frame_builder), the byte
count of a response, and the data bytes read as register values (spec 44_response_decoder). Pure functions. -/

namespace Sys2Proof.Machine

/-- `ADU_CAP`: the number of bytes of `aduBuffer` (R4, R34). -/
def aduCap : Nat := 10

/-- `REQ_LEN`: the length of the request ADU (R4, R84). -/
def reqLen : Nat := 8

/-- `HDR_LEN`: how many bytes the header check waits for, and the first value of `t.bytes_remaining` (R4). -/
def hdrLen : Nat := 5

/-- `FC`: the function code sent and expected (R4, R114). -/
def functionCode : Byte := 0x03

/-- `SENTINEL` (R4): `t.result` of every failed transaction. -/
def sentinel : Word := 0xFFFFFFFF

/-- The first six bytes of the request (R84, R85): address and count high byte first, `countHi` always zero (C7). -/
def requestBody (slaveId : Byte) (registerAddress : Half) (registerCount : Byte) : List Byte :=
  [slaveId, functionCode, hi8 registerAddress, lo8 registerAddress, 0x00, registerCount]

/-- `BUILD_READ_REQUEST` (R111): the body and its CRC, low byte first. -/
def buildReadRequest (slaveId : Byte) (registerAddress : Half) (registerCount : Byte) : List Byte :=
  requestBody slaveId registerAddress registerCount ++ crcTrailer (requestBody slaveId registerAddress registerCount)

/-- The declared data byte count, `byte[2] & 0x7F` (R86, R143). -/
def declaredCount (b2 : Byte) : Byte := b2 &&& 0x7F

/-- Two data bytes as one 16-bit register: the first byte is high when `bigEndian` (R161, R162). -/
def registerOf (bigEndian : Bool) (d0 d1 : Byte) : Half :=
  if bigEndian then (d0.setWidth 16 <<< 8) ||| d1.setWidth 16 else (d1.setWidth 16 <<< 8) ||| d0.setWidth 16

/-- `DECODE16` (R161): one register, zero-extended. -/
def decode16 (d0 d1 : Byte) (bigEndian : Bool) : Word := (registerOf bigEndian d0 d1).setWidth 32

/-- Two registers as one 32-bit value: `h` arrived first and is the high word unless `regSwap` (R162). -/
def combine (regSwap : Bool) (h l : Half) : Word :=
  if regSwap then (l.setWidth 32 <<< 16) ||| h.setWidth 32 else (h.setWidth 32 <<< 16) ||| l.setWidth 32

/-- `DECODE32` (R162). -/
def decode32 (d0 d1 d2 d3 : Byte) (bigEndian regSwap : Bool) : Word :=
  combine regSwap (registerOf bigEndian d0 d1) (registerOf bigEndian d2 d3)

end Sys2Proof.Machine
end

