-- ==== Sys2Proof/Syntax.lean ====
section
/-! DEFINITION. The instructions: one constructor per row of spec/opcode_table.json (spec 00_scope R5: the two host
commands, the five functional-unit operations, the fifteen sequencer phases; 30_encoding R80: and the three frames on
the wire), the names of the statuses and phases, and the encoded forms an instruction is read from. -/

namespace Sys2Proof

/-- One constructor per row of the opcode table, in the table's order. -/
inductive Instr where
  /-- Command SETUP (R121) with its operands (R82), most significant field of the word first. -/
  | setup (txenPresent : Bool) (timeoutMs : Word) (bigEndian regSwap : Bool) (lineCfg : BitVec Config.lcw)
  /-- Command RDHR (R122) with its operands (R83). -/
  | rdhr (slaveId : Byte) (regAddr : Half) (regCount : Byte)
  /-- Operation CRC16_UPDATE (R101). -/
  | crc16Update (crc : Half) (b : Byte)
  /-- Operation CRC16 (R102). -/
  | crc16 (bytes : List Byte)
  /-- Operation BUILD_READ_REQUEST (R111). -/
  | buildReadRequest (slaveId : Byte) (registerAddress : Half) (registerCount : Byte)
  /-- Operation DECODE16 (R161). -/
  | decode16 (d0 d1 : Byte) (bigEndian : Bool)
  /-- Operation DECODE32 (R162). -/
  | decode32 (d0 d1 d2 d3 : Byte) (bigEndian regSwap : Bool)
  /-- Phase IDLE (R120). -/
  | idle
  /-- Phase SETUP_CFG (R123). -/
  | setupCfg
  /-- Phase BUILD (R113). -/
  | build
  /-- Phase TX_ASSERT (R124). -/
  | txAssert
  /-- Phase TX_WRITE (R125). -/
  | txWrite
  /-- Phase TX_DRAIN (R126). -/
  | txDrain
  /-- Phase TX_RELEASE (R127). -/
  | txRelease
  /-- Phase RX_ARM (R141). -/
  | rxArm
  /-- Phase RX_POLL (R142). -/
  | rxPoll
  /-- Phase RX_HEADER (R143). -/
  | rxHeader
  /-- Phase RX_DEADLINE (R144, with the loop test R145). -/
  | rxDeadline
  /-- Phase CRC_CHECK (R146). -/
  | crcCheck
  /-- Phase DECODE (R163). -/
  | decode
  /-- Phase RESPOND (R128). -/
  | respond
  /-- Phase FAULT (R129). -/
  | fault
  /-- Frame REQ_RDHR (R84): the request ADU. -/
  | reqRdhr (slaveId : Byte) (regAddr : Half) (regCount : Byte) (crcLo crcHi : Byte)
  /-- Frame RSP_NORMAL (R86): responder, byte count `xnnnnnnn`, data bytes, CRC. -/
  | rspNormal (responder byteCount : Byte) (data : List Byte) (crcLo crcHi : Byte)
  /-- Frame RSP_EXCEPTION (R87): responder, function code below the exception bit, exception code, CRC. -/
  | rspException (responder : Byte) (function : BitVec 7) (code crcLo crcHi : Byte)
  deriving DecidableEq, Repr

/-- The seven statuses (R170), `OK` first, then the failures in the order of R89. -/
inductive Status where
  | ok | notInitialized | incorrectSlaveId | incorrectFunction | modbusException | timeout | crcError
  deriving DecidableEq, Repr

/-- The fifteen phases (R31). The code `0b1111` has no constructor (R91). -/
inductive Phase where
  | idle | setupCfg | build | txAssert | txWrite | txDrain | txRelease | rxArm | rxPoll | rxHeader | rxDeadline
  | crcCheck | decode | respond | fault
  deriving DecidableEq, Repr

/-- The `cmd_*` input ports (R38): the selector `cmd_op` and every operand port. The operands a command does not use
may be anything (93 U6). -/
structure CmdPort where
  op : BitVec 1
  slaveId : Byte
  regAddr : Half
  regCount : Byte
  lineCfg : BitVec Config.lcw
  txenPresent : Bool
  timeoutMs : Word
  bigEndian : Bool
  regSwap : Bool
  deriving DecidableEq, Repr

/-- Which way a frame crosses the link: the request leaves the block, a response arrives (R84, R86, R87). -/
inductive Direction where
  | toSlave | fromSlave
  deriving DecidableEq, Repr

/-- The symbolic selector of a functional-unit operation; no bits select it (R94). -/
inductive FuncOp where
  | crc16Update | crc16 | buildReadRequest | decode16 | decode32
  deriving DecidableEq, Repr

/-- What an instruction is read from, one constructor per format of R80. -/
inductive Encoded where
  /-- Format CMD: the signals at the command port (R81). -/
  | cmd (port : CmdPort)
  /-- Format FUNC: the operation by name, its operands as bytes (R94; packing: log entry 14). -/
  | func (op : FuncOp) (operands : List Byte)
  /-- Format PHASE: the code of the phase register (R90). -/
  | phase (code : BitVec 4)
  /-- Format ADU: the bytes on the wire, first byte first (R84, R86, R87). -/
  | adu (dir : Direction) (bytes : List Byte)
  deriving DecidableEq, Repr

/-- The format an instruction's row has in the opcode table (R80). -/
inductive Format where
  | cmd | func | phase | adu
  deriving DecidableEq, Repr

end Sys2Proof
end

