-- ==== Sys2Proof/WellFormed.lean ====
section
/-! DEFINITION. What the encodings of the spec admit beyond the widths of the fields: the CRC of a request
frame, the number of data bytes of a response frame. -/

namespace Sys2Proof

/-- A request frame carries the CRC of its first six bytes (R84). -/
def wfRequest (slaveId : Byte) (regAddr : Half) (regCount crcLo crcHi : Byte) : Bool :=
  decide ([crcLo, crcHi] = Machine.crcTrailer (Machine.requestBody slaveId regAddr regCount))

/-- A normal response has as many data bytes as its byte count declares (R86, R88). Its CRC may be wrong: that is what
CRC_CHECK finds out (R146). -/
def wfData (byteCount : Byte) (data : List Byte) : Bool :=
  decide (data.length = (Machine.declaredCount byteCount).toNat)

/-- The instructions the encodings can express. -/
def Instr.wf : Instr → Bool
  | .reqRdhr slaveId regAddr regCount crcLo crcHi => wfRequest slaveId regAddr regCount crcLo crcHi
  | .rspNormal _ byteCount data _ _ => wfData byteCount data
  | .setup .. | .rdhr .. | .crc16Update .. | .crc16 _ | .buildReadRequest .. | .decode16 .. | .decode32 .. | .idle | .setupCfg
  | .build | .txAssert | .txWrite | .txDrain | .txRelease | .rxArm | .rxPoll | .rxHeader | .rxDeadline | .crcCheck
  | .decode | .respond | .fault | .rspException .. => true

end Sys2Proof
end

