-- ==== Sys2Proof/Decode.lean ====
section
/-! DEFINITION. The decoder, total on every encoded form and rejecting by name, and the encoder, both written from the
encoding tables of spec/30_encoding.md; the words of the host commands (R82, R83) as bits; and `decodeTableWord`, the
decoder on a word numbered as spec/opcode_table.json numbers it. -/

namespace Sys2Proof

/-- Why an encoded form is no instruction. -/
inductive Reject where
  /-- Phase code `0b1111`, never taken (R90, R91). -/
  | noSuchPhase
  /-- A frame, operand list or command word of a length no row has. -/
  | badLength
  /-- A frame whose fixed bytes are those of no row (R84, R86, R87). -/
  | badFrame
  /-- A one-bit operand of a functional-unit operation given as a byte other than 0 or 1. -/
  | badOperand
  deriving DecidableEq, Repr

/-- The phase codes of R90. -/
def phaseCode : Phase → BitVec 4
  | .idle => 0b0000
  | .setupCfg => 0b0001
  | .build => 0b0010
  | .txAssert => 0b0011
  | .txWrite => 0b0100
  | .txDrain => 0b0101
  | .txRelease => 0b0110
  | .rxArm => 0b0111
  | .rxPoll => 0b1000
  | .rxHeader => 0b1001
  | .rxDeadline => 0b1010
  | .crcCheck => 0b1011
  | .decode => 0b1100
  | .respond => 0b1101
  | .fault => 0b1110

/-- The instruction a phase performs: the row of its name. -/
def phaseInstr : Phase → Instr
  | .idle => .idle
  | .setupCfg => .setupCfg
  | .build => .build
  | .txAssert => .txAssert
  | .txWrite => .txWrite
  | .txDrain => .txDrain
  | .txRelease => .txRelease
  | .rxArm => .rxArm
  | .rxPoll => .rxPoll
  | .rxHeader => .rxHeader
  | .rxDeadline => .rxDeadline
  | .crcCheck => .crcCheck
  | .decode => .decode
  | .respond => .respond
  | .fault => .fault

/-- All phases, in the order of their codes. -/
def allPhases : List Phase :=
  [.idle, .setupCfg, .build, .txAssert, .txWrite, .txDrain, .txRelease, .rxArm, .rxPoll, .rxHeader, .rxDeadline,
   .crcCheck, .decode, .respond, .fault]

/-- The phase a code stands for (R90); `0b1111` stands for none. -/
def phaseOfCode (code : BitVec 4) : Option Phase := allPhases.find? (fun p => decide (phaseCode p = code))

/-- Format CMD: `cmd_op` selects, 0 SETUP, 1 RDHR; no value is reserved (R81). -/
def decodeCmd (p : CmdPort) : Instr :=
  if p.op = 1 then .rdhr p.slaveId p.regAddr p.regCount
  else .setup p.txenPresent p.timeoutMs p.bigEndian p.regSwap p.lineCfg

/-- A one-bit operand of a functional-unit operation. -/
def decodeBit (b : Byte) : Except Reject Bool :=
  if b = 0 then .ok false else if b = 1 then .ok true else .error .badOperand

/-- Format FUNC: the operation is named, not coded (R94); 16-bit operands come high byte first (log entry 14). -/
def decodeFunc : FuncOp → List Byte → Except Reject Instr
  | .crc16Update, [hi, lo, b] => .ok (.crc16Update (hi ++ lo) b)
  | .crc16, bytes => .ok (.crc16 bytes)
  | .buildReadRequest, [s, hi, lo, n] => .ok (.buildReadRequest s (hi ++ lo) n)
  | .decode16, [d0, d1, be] => (decodeBit be).map (fun e => .decode16 d0 d1 e)
  | .decode32, [d0, d1, d2, d3, be, sw] =>
    match decodeBit be, decodeBit sw with
    | .ok e, .ok w => .ok (.decode32 d0 d1 d2 d3 e w)
    | _, _ => .error .badOperand
  | _, _ => .error .badLength

/-- Format ADU, a request: eight bytes, byte 1 `0x03`, byte 4 `0x00` (R84). -/
def decodeRequest : List Byte → Except Reject Instr
  | [s, f, aHi, aLo, cHi, cLo, crcLo, crcHi] =>
    if f = 0x03 ∧ cHi = 0x00 then .ok (.reqRdhr s (aHi ++ aLo) cLo crcLo crcHi) else .error .badFrame
  | _ => .error .badLength

/-- Format ADU, a response: bit 7 of byte 1 set, an exception response of five bytes (R87); byte 1 `0x03`, a normal
response of `3 + N + 2` bytes (R86, R88); anything else is neither row. -/
def decodeResponse : List Byte → Except Reject Instr
  | r :: f :: c :: rest =>
    if f.getLsbD 7 then
      match rest with
      | [crcLo, crcHi] => .ok (.rspException r (f.setWidth 7) c crcLo crcHi)
      | _ => .error .badLength
    else if f = 0x03 then
      match rest.drop (Machine.declaredCount c).toNat with
      | [crcLo, crcHi] => .ok (.rspNormal r c (rest.take (Machine.declaredCount c).toNat) crcLo crcHi)
      | _ => .error .badLength
    else .error .badFrame
  | _ => .error .badLength

/-- The decoder: total, rejecting by name. -/
def decode : Encoded → Except Reject Instr
  | .cmd port => .ok (decodeCmd port)
  | .func op operands => decodeFunc op operands
  | .phase code => match phaseOfCode code with
    | some p => .ok (phaseInstr p)
    | none => .error .noSuchPhase
  | .adu .toSlave bytes => decodeRequest bytes
  | .adu .fromSlave bytes => decodeResponse bytes

/-- A one-bit operand as a byte. -/
def encodeBit (b : Bool) : Byte := if b then 1 else 0

/-- The command port of a SETUP; the ports it does not use are driven 0 (93 U6). -/
def setupPort (txenPresent : Bool) (timeoutMs : Word) (bigEndian regSwap : Bool) (lineCfg : BitVec Config.lcw) :
    CmdPort :=
  { op := 0, slaveId := 0, regAddr := 0, regCount := 0, lineCfg, txenPresent, timeoutMs, bigEndian, regSwap }

/-- The command port of an RDHR; the ports it does not use are driven 0 (93 U6). -/
def rdhrPort (slaveId : Byte) (regAddr : Half) (regCount : Byte) : CmdPort :=
  { op := 1, slaveId, regAddr, regCount, lineCfg := 0, txenPresent := false, timeoutMs := 0, bigEndian := false,
    regSwap := false }

/-- The bytes of a request frame (R84). -/
def requestBytes (slaveId : Byte) (regAddr : Half) (regCount crcLo crcHi : Byte) : List Byte :=
  [slaveId, 0x03, Machine.hi8 regAddr, Machine.lo8 regAddr, 0x00, regCount, crcLo, crcHi]

/-- The bytes of a normal response (R86). -/
def normalBytes (responder byteCount : Byte) (data : List Byte) (crcLo crcHi : Byte) : List Byte :=
  responder :: 0x03 :: byteCount :: (data ++ [crcLo, crcHi])

/-- The bytes of an exception response: byte 1 is the function code with bit 7 set (R87). -/
def exceptionBytes (responder : Byte) (function : BitVec 7) (code crcLo crcHi : Byte) : List Byte :=
  [responder, 1#1 ++ function, code, crcLo, crcHi]

/-- The encoder. -/
def encode : Instr → Encoded
  | .setup txenPresent timeoutMs bigEndian regSwap lineCfg =>
    .cmd (setupPort txenPresent timeoutMs bigEndian regSwap lineCfg)
  | .rdhr slaveId regAddr regCount => .cmd (rdhrPort slaveId regAddr regCount)
  | .crc16Update crc b => .func .crc16Update [Machine.hi8 crc, Machine.lo8 crc, b]
  | .crc16 bytes => .func .crc16 bytes
  | .buildReadRequest s a n => .func .buildReadRequest [s, Machine.hi8 a, Machine.lo8 a, n]
  | .decode16 d0 d1 be => .func .decode16 [d0, d1, encodeBit be]
  | .decode32 d0 d1 d2 d3 be sw => .func .decode32 [d0, d1, d2, d3, encodeBit be, encodeBit sw]
  | .idle => .phase 0b0000
  | .setupCfg => .phase 0b0001
  | .build => .phase 0b0010
  | .txAssert => .phase 0b0011
  | .txWrite => .phase 0b0100
  | .txDrain => .phase 0b0101
  | .txRelease => .phase 0b0110
  | .rxArm => .phase 0b0111
  | .rxPoll => .phase 0b1000
  | .rxHeader => .phase 0b1001
  | .rxDeadline => .phase 0b1010
  | .crcCheck => .phase 0b1011
  | .decode => .phase 0b1100
  | .respond => .phase 0b1101
  | .fault => .phase 0b1110
  | .reqRdhr s a n crcLo crcHi => .adu .toSlave (requestBytes s a n crcLo crcHi)
  | .rspNormal r c data crcLo crcHi => .adu .fromSlave (normalBytes r c data crcLo crcHi)
  | .rspException r f e crcLo crcHi => .adu .fromSlave (exceptionBytes r f e crcLo crcHi)

/-- The format of an encoded form (R80). -/
def Encoded.format : Encoded → Format
  | .cmd _ => .cmd
  | .func _ _ => .func
  | .phase _ => .phase
  | .adu _ _ => .adu

/-- The low `n` bits of `w`, most significant first (R6: leftmost is the most significant bit). -/
def bitsOf (n w : Nat) : List Bool := (List.range n).reverse.map (fun i => w.testBit i)

/-- The `n` low bytes of `w`, most significant first: the first byte of a frame is leftmost (R80). -/
def bytesOf (n w : Nat) : List Byte := (List.range n).reverse.map (fun i => BitVec.ofNat 8 (w >>> (8 * i)))

/-- The number a bit string stands for, most significant bit first. -/
def natOfBits (bits : List Bool) : Nat := bits.foldl (fun a b => 2 * a + b.toNat) 0

/-- The field of `n` bits a bit string stands for. -/
def fieldOf (n : Nat) (bits : List Bool) : BitVec n := BitVec.ofNat n (natOfBits bits)

/-- The ports a command word stands for: RDHR is `1 s(8) a(16) n(8)` (R83), SETUP is `0 t m(32) b w l...l` with
exactly `LCW` bits of line word (R82). -/
def portOfWord : List Bool → Except Reject CmdPort
  | true :: rest =>
    if rest.length = 32 then
      .ok (rdhrPort (fieldOf 8 (rest.take 8)) (fieldOf 16 ((rest.drop 8).take 16)) (fieldOf 8 (rest.drop 24)))
    else .error .badLength
  | false :: t :: rest =>
    match rest.drop 32 with
    | b :: w :: line =>
      if line.length = Config.lcw then .ok (setupPort t (fieldOf 32 (rest.take 32)) b w (fieldOf Config.lcw line))
      else .error .badLength
    | _ => .error .badLength
  | _ => .error .badLength

/-- The command word of what is offered at the command port, in the notation of R82 and R83. -/
def wordOfPort (p : CmdPort) : List Bool :=
  if p.op = 1 then
    true :: (bitsOf 8 p.slaveId.toNat ++ bitsOf 16 p.regAddr.toNat ++ bitsOf 8 p.regCount.toNat)
  else
    false :: p.txenPresent ::
      (bitsOf 32 p.timeoutMs.toNat ++ (p.bigEndian :: p.regSwap :: bitsOf Config.lcw p.lineCfg.toNat))

/-- The decoder on a command word. -/
def decodeCmdWord (bits : List Bool) : Except Reject Instr := (portOfWord bits).map decodeCmd

/-- The instruction of a word of `nbits` bits numbered as the opcode table numbers it (bit 0 the last bit of the
pattern). The table's formats share no selector: they meet the block at different places (R80), so the width tells
them apart, and where two rows share a width the order below decides (log entry 17): a phase code up to 8 bits; RDHR in
33 to 40 bits with bit 32 the leading one; then the frames of that many whole bytes; then SETUP, whose line word has to
fill what is left. The FUNC rows have no bits (R94). -/
def decodeTableWord (nbits w : Nat) : Option Instr :=
  if nbits = 0 ∨ 2 ^ nbits ≤ w then none
  else if nbits ≤ 8 then
    if w < 16 then (decode (.phase (BitVec.ofNat 4 w))).toOption else none
  else if nbits < 33 then none
  else if nbits ≤ 40 ∧ w >>> 32 = 1 then (decodeCmdWord (bitsOf 33 w)).toOption
  else
    match decode (.adu .toSlave (bytesOf (nbits / 8) w)), decode (.adu .fromSlave (bytesOf (nbits / 8) w)) with
    | .ok i, _ => if nbits % 8 = 0 then some i else (decodeCmdWord (bitsOf nbits w)).toOption
    | .error _, .ok i => if nbits % 8 = 0 then some i else (decodeCmdWord (bitsOf nbits w)).toOption
    | .error _, .error _ => (decodeCmdWord (bitsOf nbits w)).toOption

end Sys2Proof
end

