-- ==== Sys2Proof/Machine/Flags.lean ====
section
/-! DEFINITION. The computations of the block's one flag, `t.status` (spec 10_state R25, 43_receive_parser, 60_exceptions):
the header checks, the deadline, the loop test, the trailing CRC. -/

namespace Sys2Proof.Machine

/-- The first header check (R143, R172). -/
def addressCheck (slaveId b0 : Byte) (st : Status) : Status := if b0 ≠ slaveId then .incorrectSlaveId else st

/-- The second header check, ignoring the exception bit; the mask applies first (R143, R173, C5). -/
def functionCheck (fc b1 : Byte) (st : Status) : Status := if b1 &&& 0x7F ≠ fc then .incorrectFunction else st

/-- The third header check: the exception bit (R143, R174, C5). -/
def exceptionCheck (b1 : Byte) (st : Status) : Status := if b1 &&& 0x80 ≠ 0 then .modbusException else st

/-- The three checks in their fixed order, each overwriting the status: the last one that holds wins (R143, R178). -/
def headerStatus (slaveId fc b0 b1 : Byte) (st : Status) : Status :=
  exceptionCheck b1 (functionCheck fc b1 (addressCheck slaveId b0 st))

/-- `(now - start) mod 2^32` (R144). -/
def elapsed (start now : Word) : Word := now - start

/-- The deadline check: strictly greater, over any status (R144, R175). -/
def deadlineStatus (start timeout now : Word) (st : Status) : Status :=
  if timeout < elapsed start now then .timeout else st

/-- The loop test (R145): `bytes_remaining > 0 and status == OK`. -/
def loopContinues (bytesRemaining : Byte) (st : Status) : Bool := decide (0 < bytesRemaining) && decide (st = .ok)

/-- The received bytes less the two that carry the CRC (R146). -/
def crcBody (bytes : List Byte) : List Byte := bytes.take (bytes.length - 2)

/-- Whether the last two received bytes are the low and the high byte of the CRC of the bytes before them (R146). -/
def trailerMatches (bytes : List Byte) : Bool := decide (bytes.drop (bytes.length - 2) = crcTrailer (crcBody bytes))

/-- The status after the CRC validation of all received `bytes` (R146, R176): written only over `OK`, and only when at
least five bytes were captured. -/
def crcStatus (bytes : List Byte) (st : Status) : Status :=
  if st = .ok ∧ hdrLen ≤ bytes.length ∧ trailerMatches bytes = false then .crcError else st

end Sys2Proof.Machine
end

