-- ==== Sys2Proof/Machine/State.lean ====
section
/-! DEFINITION. The state of the block as plain data (spec 10_state R20 to R43), the inputs of its environment as
lists the step reads (00_scope R7, R8), the observed trace (R9), the reasons a step can stop, and the state after
reset (R41). -/

namespace Sys2Proof.Machine

/-- The link-configuration registers `cfg.*` (R21 to R23). -/
structure CfgRegs where
  /-- `cfg.line_cfg`: the opaque word of `LCW` bits, stored and forwarded unchanged (R21). -/
  lineCfg : BitVec Config.lcw
  /-- `cfg.txen_present` (R21). -/
  txenPresent : Bool
  /-- `cfg.timeout_ms` (R21). -/
  timeoutMs : Word
  /-- `cfg.big_endian` (R21). -/
  bigEndian : Bool
  /-- `cfg.reg_swap` (R21). -/
  regSwap : Bool
  /-- `cfg.configured` (R22). -/
  configured : Bool
  /-- `cfg.setup_seen` (R23). -/
  setupSeen : Bool
  deriving DecidableEq, Repr

/-- The transaction registers `t.*` (R24 to R30, R32). -/
structure TxnRegs where
  /-- `t.slave_id` (R24). -/
  slaveId : Byte
  /-- `t.function_code` (R24). Log entry 13. -/
  functionCode : Byte
  /-- `t.reg_addr` (R24). -/
  regAddr : Half
  /-- `t.reg_count` (R24). -/
  regCount : Byte
  /-- `t.status` (R25). -/
  status : Status
  /-- `t.result` (R26). -/
  result : Word
  /-- `t.bytes_remaining` (R27). -/
  bytesRemaining : Byte
  /-- `t.cursor` (R28). -/
  cursor : BitVec 4
  /-- `t.start_ms` (R29). -/
  startMs : Word
  /-- `t.crc` (R30). Log entry 12. -/
  crc : Half
  /-- `t.tx_idx` (R32). -/
  txIdx : BitVec 4
  deriving DecidableEq, Repr

/-- The answer of `TransportConfigure` (R7). -/
inductive ConfigureAnswer where
  | ok | fail
  deriving DecidableEq, Repr

/-- The answer of `TxDrain` (R7). -/
inductive DrainAnswer where
  | done | expired
  deriving DecidableEq, Repr

/-- The answer of `RxPoll` (R7): a byte, or none. -/
abbrev PollAnswer := Option Byte

/-- The response of a command at the response port, without the fields that may hold anything (R40, R95). -/
inductive Response where
  | setup (ok : Bool)
  | rdhr (status : Status) (result : Word)
  deriving DecidableEq, Repr

/-- What an observer outside sees (R9, R92). Log entry 16. -/
inductive Event where
  | txEn (v : Bool)
  | tx (b : Byte)
  | drain (a : DrainAnswer)
  | now (t : Word)
  | rx (a : PollAnswer)
  | configure (line : BitVec Config.lcw) (a : ConfigureAnswer)
  | respond (r : Response)
  deriving DecidableEq, Repr

/-- A frame crossing the link (R80, R84, R86, R87). Log entry 15. -/
structure WireFrame where
  dir : Direction
  bytes : List Byte
  deriving DecidableEq, Repr

/-- The inputs still to come, each list oldest first. An answer that is not there yet holds the phase that asks for it
(R193). Log entries 2, 3, 4, 10, 15. -/
structure Env where
  /-- Samples of `rst`, one per step; none listed means 0 (R38, R200). -/
  rst : List Bool
  /-- Commands the host offers at the command port (R38, R39). -/
  cmds : List CmdPort
  /-- Frames crossing the link before the next phase (R84, R86, R87). -/
  wire : List WireFrame
  /-- Answers of `TransportConfigure`. -/
  configure : List ConfigureAnswer
  /-- Samples of `tx_ready` in the coming cycles in which `tx_valid` is 1 (R38, R125). -/
  txReady : List Bool
  /-- Answers of `TxDrain`. -/
  drain : List DrainAnswer
  /-- Samples of the millisecond clock in the coming cycles in which `Now()` is called (R38, R186). -/
  now : List Word
  /-- Answers of `RxPoll`. -/
  rx : List PollAnswer
  /-- Samples of `rsp_ready` in the coming cycles in which `rsp_valid` is 1 (R38, R40). -/
  rspReady : List Bool
  deriving DecidableEq, Repr

/-- The value a functional-unit operation returns (R94). -/
inductive FuncResult where
  | crc (v : Half)
  | frame (bytes : List Byte)
  | value (v : Word)
  deriving DecidableEq, Repr

/-- The whole state. `cfg`, `t`, `phase`, `txEn`, `fault`, `adu` are the state of R20; `rspIsSetup` and `rspSetupOk` are
what R40 and R123 make the response port show (log entry 11); the rest is the model's own. -/
structure State where
  /-- `cfg.*` (R21 to R23). -/
  cfg : CfgRegs
  /-- `t.*` (R24 to R30, R32). -/
  t : TxnRegs
  /-- `phase` (R31). -/
  phase : Phase
  /-- `tx_en` (R33). -/
  txEn : Bool
  /-- `fault` (R42). -/
  fault : Bool
  /-- `aduBuffer` (R34): the written bytes, by index, strictly rising; a byte that is not listed has no value. Log entry 6. -/
  adu : List Host.Cell
  /-- What `rsp_is_setup` shows in RESPOND (R40, R123). -/
  rspIsSetup : Bool
  /-- What `rsp_setup_ok` shows in RESPOND after a SETUP (R40, R123). -/
  rspSetupOk : Bool
  /-- The inputs still to come. -/
  env : Env
  /-- The events so far, oldest first (R9). -/
  trace : List Event
  /-- What has crossed the link to the slave, oldest first: runs of bytes the block had handed over. Log entry 15. -/
  line : List (List Byte)
  /-- The value of the last functional-unit operation performed on its own (R94). Log entry 14. -/
  fuOut : Option FuncResult
  /-- How many free values have been drawn. Log entry 7. -/
  draws : Nat
  deriving DecidableEq, Repr

/-- Why the machine stops. Both are accesses to a byte that is not there; no run from reset reaches one, and stopping is
safe (nothing is proved of a continuation). -/
inductive Fault where
  /-- Raised by a phase that reads or writes `adu[i]` with `i` outside 0 to 9, an address that does not exist (R66), other
  than the eleventh store, which is `Fault(AduOverrun)` and leads to the phase FAULT. Safe. Log entry 20. -/
  | noSuchByte (index : Nat)
  /-- Raised by a phase that reads a byte of `aduBuffer` that nothing has written: it has no value (R43). Safe. Log entry 6. -/
  | unwrittenByte (index : Nat)
  deriving DecidableEq, Repr

/-- Why an instruction is refused. -/
inductive Refusal where
  /-- Raised by `exec` for an instruction that has no meaning in the model yet. Safe. -/
  | notModelled (mnemonic : String)
  /-- Raised by the acceptance of a second SETUP since reset, to which the spec gives no meaning: "a model refuses it"
  (R121, R203). Safe. Log entry 9. -/
  | secondSetup
  deriving DecidableEq, Repr

/-- The outcome of a step. -/
abbrev Result := Host.Outcome State Fault Refusal

/-- The configuration registers after reset: the two flags 0 (R41), the rest DESIGN CHOICE zero (log entry 5). -/
def CfgRegs.reset : CfgRegs :=
  { lineCfg := 0, txenPresent := false, timeoutMs := 0, bigEndian := false, regSwap := false, configured := false,
    setupSeen := false }

/-- The transaction registers after reset: unspecified (R41), DESIGN CHOICE zero (log entry 5). -/
def TxnRegs.reset : TxnRegs :=
  { slaveId := 0, functionCode := 0, regAddr := 0, regCount := 0, status := .ok, result := 0, bytesRemaining := 0,
    cursor := 0, startMs := 0, crc := 0, txIdx := 0 }

/-- No input is waiting. -/
def Env.empty : Env :=
  { rst := [], cmds := [], wire := [], configure := [], txReady := [], drain := [], now := [], rx := [],
    rspReady := [] }

/-- The machine right after reset (R41, R200): IDLE, unconfigured, `tx_en` and `fault` 0, no byte of the buffer written. -/
def State.reset : State :=
  { cfg := CfgRegs.reset, t := TxnRegs.reset, phase := .idle, txEn := false, fault := false, adu := [],
    rspIsSetup := false, rspSetupOk := false, env := Env.empty, trace := [], line := [], fuOut := none, draws := 0 }

end Sys2Proof.Machine
end

