-- ==== Sys2Proof/Machine/Ops.lean ====
section
/-! DEFINITION. The named operations over memory and registers: reading and writing `aduBuffer` (spec 20_memory R63,
R64, R66), holding a phase whose primitive has not returned (60_exceptions R193), the observed trace (00_scope R9), the
free value of DECODE (R164, R165), the entry of the fault `AduOverrun` (R190) and reset, the only way out of it (R200). -/

namespace Sys2Proof.Machine

/-- The byte listed at `a`, if any. -/
def aduRead : List Host.Cell → Nat → Option Byte
  | [], _ => none
  | (k, v) :: rest, a => if k = a then some v else aduRead rest a

/-- `adu[a] <- b`, keeping the indices strictly rising. -/
def aduWrite : List Host.Cell → Nat → Byte → List Host.Cell
  | [], a, b => [(a, b)]
  | (k, v) :: rest, a, b =>
    if a < k then (a, b) :: (k, v) :: rest
    else if k = a then (a, b) :: rest
    else (k, v) :: aduWrite rest a b

/-- `adu[a], adu[a+1], ... <- bytes`. -/
def aduWriteList : List Host.Cell → Nat → List Byte → List Host.Cell
  | m, _, [] => m
  | m, a, b :: rest => aduWriteList (aduWrite m a b) (a + 1) rest

/-- The canonical form of the buffer: indices strictly rising, all of them in 0 to 9. An unlisted byte has no value, so
no listed byte equals it. -/
abbrev AduWf (m : List Host.Cell) : Prop :=
  m.Pairwise (fun x y => x.1 < y.1) ∧ ∀ c ∈ m, c.1 < aduCap

/-- `MemRead(i, 1)` (R6): an index outside the buffer does not exist (R66), a byte nothing has written has no value (R43). -/
def aduFetch (m : List Host.Cell) (i : Nat) : Except Fault Byte :=
  if i < aduCap then
    match aduRead m i with
    | some b => .ok b
    | none => .error (.unwrittenByte i)
  else .error (.noSuchByte i)

/-- `adu[0], ..., adu[n-1]`, in order. -/
def aduPrefix (m : List Host.Cell) : Nat → Except Fault (List Byte)
  | 0 => .ok []
  | n + 1 =>
    match aduPrefix m n with
    | .error f => .error f
    | .ok bytes =>
      match aduFetch m n with
      | .error f => .error f
      | .ok b => .ok (bytes ++ [b])

/-- Go on with `adu[i]`, or stop with the fault of the read. -/
def withAdu (s : State) (i : Nat) (k : Byte → Result) : Result :=
  match aduFetch s.adu i with
  | .ok b => k b
  | .error f => .fault f

/-- Go on with `adu[0..n-1]`, or stop with the fault of the read. -/
def withAduPrefix (s : State) (n : Nat) (k : List Byte → Result) : Result :=
  match aduPrefix s.adu n with
  | .ok bytes => k bytes
  | .error f => .fault f

/-- `phase <- p`, the only control transfer (R6). -/
def State.setPhase (s : State) (p : Phase) : State := { s with phase := p }

/-- `TxEn(v)` (R7): drive the transmit-enable output. -/
def State.driveTxEn (s : State) (v : Bool) : State := { s with txEn := v, trace := s.trace ++ [.txEn v] }

/-- The byte an event hands to the transport, if any. -/
def Event.txByte? : Event → Option Byte
  | .tx b => some b
  | .txEn _ | .drain _ | .now _ | .rx _ | .configure _ _ | .respond _ => none

/-- The transmit stream (R60, R72): the bytes handed to the transport so far, in order. -/
def txBytes (trace : List Event) : List Byte := trace.filterMap Event.txByte?

/-- The primitive the phase asks for has not returned: the sequencer stays in the phase and nothing else happens (R193). -/
def hold (p : Phase) (s : State) : Result := .next (s.setPhase p)

/-- DECODE leaves "any value" in `t.result` (R164, R165): a free value, fresh at each draw. Log entry 7. -/
def State.drawResult (s : State) : State :=
  { s with t := { s.t with result := Config.undefinedResult s.draws }, draws := s.draws + 1 }

/-- `raise Fault(AduOverrun)` (R190): the sequencer goes to FAULT and the output `fault` rises; nothing is stored and no
response is given. Log entry 8. -/
def raiseAduOverrun (s : State) : State := { s with phase := .fault, fault := true }

/-- Reset (R200, R201): every register of the block takes its reset value; `tx_en` drops; the inputs still to come stay
where they are, less the sample of `rst` that caused the reset. Log entries 4, 5. DESIGN CHOICE: the model's own records,
which are no registers of the block, keep what they hold: `trace` (log entry 16), `line` (15), `fuOut` (14), `draws` (7). -/
def resetBlock (s : State) : State :=
  { State.reset with
    env := { s.env with rst := s.env.rst.tail },
    trace := if s.txEn then s.trace ++ [.txEn false] else s.trace,
    line := s.line, fuOut := s.fuOut, draws := s.draws }

/-- The sample of `rst` for this step is used up. -/
def dropRst (s : State) : State := { s with env := { s.env with rst := s.env.rst.tail } }

end Sys2Proof.Machine
end

