-- ==== Sys2Proof/Machine/Adu.lean ====
section
/-! DEFINITION. The frames of the opcode table crossing the link (spec 30_encoding R84, R86, R87; streams 20_memory R60,
R72, R73). Only bytes that TX_WRITE has handed over can cross to the slave (R7, R72), and the block does not see them
cross (R37). A response is bytes of the receive stream, behind those that wait there, and the block learns of it by
polling. No register and no output of the block changes. Log entry 15. -/

namespace Sys2Proof.Machine

/-- The frame at the head of `wire` has crossed. -/
def takeWire (s : State) : State := { s with env := { s.env with wire := s.env.wire.tail } }

/-- The bytes the block has handed to the transport (R72) that have not crossed the link yet. -/
def outstanding (s : State) : List Byte := (txBytes s.trace).drop s.line.flatten.length

/-- Bytes cross to the slave, in the order in which the block handed them over. Bytes it has not handed over are not there
and nothing crosses. -/
def crossBytes (bytes : List Byte) (s : State) : State :=
  if bytes.isPrefixOf (outstanding s) then { s with line := s.line ++ [bytes] } else s

/-- Bytes presented by the transport after those that wait there, each once and in order (R73, EA3). -/
def presentBytes (bytes : List Byte) (s : State) : State :=
  { s with env := { s.env with rx := s.env.rx ++ bytes.map some } }

/-- A frame crosses the link. -/
def deliver (dir : Direction) (bytes : List Byte) (s : State) : State :=
  match dir with
  | .toSlave => crossBytes bytes (takeWire s)
  | .fromSlave => presentBytes bytes (takeWire s)

/-- REQ_RDHR (R84): the request frame crosses to the slave. -/
def execReqRdhr (slaveId : Byte) (regAddr : Half) (regCount crcLo crcHi : Byte) (s : State) : Result :=
  .next (deliver .toSlave (requestBytes slaveId regAddr regCount crcLo crcHi) s)

/-- RSP_NORMAL (R86): the response frame on the receive stream. -/
def execRspNormal (responder byteCount : Byte) (data : List Byte) (crcLo crcHi : Byte) (s : State) : Result :=
  .next (deliver .fromSlave (normalBytes responder byteCount data crcLo crcHi) s)

/-- RSP_EXCEPTION (R87): the exception frame on the receive stream. -/
def execRspException (responder : Byte) (function : BitVec 7) (code crcLo crcHi : Byte) (s : State) : Result :=
  .next (deliver .fromSlave (exceptionBytes responder function code crcLo crcHi) s)

end Sys2Proof.Machine
end

