-- ==== Sys2Proof/Machine/Commands.lean ====
section
/-! DEFINITION. The host commands and the phases that accept, complete and answer them (spec 42_commands_and_transmit
R120 to R123, R128, R129; handshakes 10_state R39, R40). -/

namespace Sys2Proof.Machine

/-- The host's offer has been taken from the command port (R39). -/
def takeCmd (s : State) : State := { s with env := { s.env with cmds := s.env.cmds.tail } }

/-- The acceptance of SETUP in IDLE (R121): a second one since reset has no meaning and is refused. -/
def acceptSetup (txenPresent : Bool) (timeoutMs : Word) (bigEndian regSwap : Bool) (lineCfg : BitVec Config.lcw)
    (s : State) : Result :=
  if s.cfg.setupSeen then .refused .secondSetup
  else
    .next { takeCmd s with
      cfg := { s.cfg with lineCfg, txenPresent, timeoutMs, bigEndian, regSwap, setupSeen := true }
      phase := .setupCfg }

/-- The acceptance of RDHR in IDLE with the precondition check (R122). -/
def acceptRdhr (slaveId : Byte) (regAddr : Half) (regCount : Byte) (s : State) : Result :=
  .next { takeCmd s with
    t := { s.t with
      slaveId, functionCode, regAddr, regCount, result := sentinel
      status := if s.cfg.configured then .ok else .notInitialized }
    rspIsSetup := false
    phase := if s.cfg.configured then .build else .respond }

/-- SETUP (R121): accepted in IDLE only; in any other phase `cmd_ready` is 0 and the command is held at the port (R39). -/
def execSetup (txenPresent : Bool) (timeoutMs : Word) (bigEndian regSwap : Bool) (lineCfg : BitVec Config.lcw)
    (s : State) : Result :=
  if s.phase = .idle then acceptSetup txenPresent timeoutMs bigEndian regSwap lineCfg s else .next s

/-- RDHR (R122): accepted in IDLE only; in any other phase it is held at the port (R39). -/
def execRdhr (slaveId : Byte) (regAddr : Half) (regCount : Byte) (s : State) : Result :=
  if s.phase = .idle then acceptRdhr slaveId regAddr regCount s else .next s

/-- Phase IDLE (R120): wait; when a command is offered the step is its acceptance, by `cmd_op`. -/
def execIdle (s : State) : Result :=
  match s.env.cmds with
  | [] => hold .idle s
  | c :: _ =>
    if c.op = 1 then acceptRdhr c.slaveId c.regAddr c.regCount (s.setPhase .idle)
    else acceptSetup c.txenPresent c.timeoutMs c.bigEndian c.regSwap c.lineCfg (s.setPhase .idle)

/-- Phase SETUP_CFG (R123): `cfg.configured` takes the transport's answer. The event of the trace is the model's choice: log
entry 16. -/
def execSetupCfg (s : State) : Result :=
  match s.env.configure with
  | [] => hold .setupCfg s
  | a :: rest =>
    .next { s with
      cfg := { s.cfg with configured := decide (a = .ok) }
      rspIsSetup := true
      rspSetupOk := decide (a = .ok)
      env := { s.env with configure := rest }
      trace := s.trace ++ [.configure s.cfg.lineCfg a]
      phase := .respond }

/-- What the response port shows in RESPOND (R40). -/
def responseOf (s : State) : Response :=
  if s.rspIsSetup then .setup s.rspSetupOk else .rdhr s.t.status s.t.result

/-- Phase RESPOND (R128): the response is held until the first cycle with `rsp_ready` 1 (R40), then IDLE. Log entry 3. -/
def execRespond (s : State) : Result :=
  match s.env.rspReady with
  | [] => hold .respond s
  | false :: rest => hold .respond { s with env := { s.env with rspReady := rest } }
  | true :: rest =>
    .next { s with
      env := { s.env with rspReady := rest }
      trace := s.trace ++ [.respond (responseOf s)]
      phase := .idle }

/-- Phase FAULT (R129): for ever; only reset leaves. -/
def execFault (s : State) : Result := .next (raiseAduOverrun s)

end Sys2Proof.Machine
end

