-- ==== Sys2Proof/Machine/Decoder.lean ====
section
/-! DEFINITION. Phase DECODE (spec 44_response_decoder R163 to R165). -/

namespace Sys2Proof.Machine

/-- `t.result <- v`, then RESPOND. -/
def respondWith (v : Word) (s : State) : Result := .next { s with t := { s.t with result := v }, phase := .respond }

/-- `t.result <- any value`, then RESPOND (R164, R165). -/
def respondUndefined (s : State) : Result := .next (s.drawResult.setPhase .respond)

/-- Phase DECODE (R163): the sentinel unless `OK`; the decoded value when the count is 1 or 2 and the declared payload is
long enough; otherwise any value, the status staying `OK`. -/
def execDecode (s : State) : Result :=
  if s.t.status ≠ .ok then respondWith sentinel s
  else if s.t.regCount = 1 then
    withAdu s 2 fun b2 =>
      if 2 ≤ (declaredCount b2).toNat then
        withAdu s 3 fun d0 => withAdu s 4 fun d1 => respondWith (decode16 d0 d1 s.cfg.bigEndian) s
      else respondUndefined s
  else if s.t.regCount = 2 then
    withAdu s 2 fun b2 =>
      if 4 ≤ (declaredCount b2).toNat then
        withAdu s 3 fun d0 => withAdu s 4 fun d1 => withAdu s 5 fun d2 => withAdu s 6 fun d3 =>
          respondWith (decode32 d0 d1 d2 d3 s.cfg.bigEndian s.cfg.regSwap) s
      else respondUndefined s
  else respondUndefined s

end Sys2Proof.Machine
end

