-- ==== Sys2Proof/Machine/Func.lean ====
section
/-! DEFINITION. The functional-unit operations performed on their own (spec 30_encoding R94, 40_crc_engine,
41_frame_builder, 44_response_decoder). They are pure: no register, no flag, no byte of the buffer changes; the value
they return stands on `fuOut`, which no phase reads (log entry 14). The phases call the same functions. -/

namespace Sys2Proof.Machine

/-- The value a functional-unit operation returns. -/
def returns (r : FuncResult) (s : State) : Result := .next { s with fuOut := some r }

/-- CRC16_UPDATE (R101). -/
def execCrc16Update (crc : Half) (b : Byte) (s : State) : Result := returns (.crc (crc16Update crc b)) s

/-- CRC16 (R102). -/
def execCrc16 (bytes : List Byte) (s : State) : Result := returns (.crc (crc16 bytes)) s

/-- BUILD_READ_REQUEST (R111). -/
def execBuildReadRequest (slaveId : Byte) (registerAddress : Half) (registerCount : Byte) (s : State) : Result :=
  returns (.frame (buildReadRequest slaveId registerAddress registerCount)) s

/-- DECODE16 (R161). -/
def execDecode16 (d0 d1 : Byte) (bigEndian : Bool) (s : State) : Result := returns (.value (decode16 d0 d1 bigEndian)) s

/-- DECODE32 (R162). -/
def execDecode32 (d0 d1 d2 d3 : Byte) (bigEndian regSwap : Bool) (s : State) : Result :=
  returns (.value (decode32 d0 d1 d2 d3 bigEndian regSwap)) s

end Sys2Proof.Machine
end

