-- ==== Sys2Proof/Machine/Receive.lean ====
section
/-! DEFINITION. The incremental response parser: RX_ARM, RX_POLL, RX_HEADER, RX_DEADLINE with the loop test, CRC_CHECK
(spec 43_receive_parser R141 to R146). -/

namespace Sys2Proof.Machine

/-- Phase RX_ARM (R141). -/
def execRxArm (s : State) : Result :=
  match s.env.now with
  | [] => hold .rxArm s
  | t0 :: rest =>
    .next { s with
      t := { s.t with startMs := t0, cursor := 0, bytesRemaining := BitVec.ofNat 8 hdrLen }
      env := { s.env with now := rest }
      trace := s.trace ++ [.now t0]
      phase := .rxPoll }

/-- The poll's answer is taken from the transport and seen (R64: the access is not idempotent). -/
def takePoll (s : State) (a : PollAnswer) (rest : List PollAnswer) : State :=
  { s with env := { s.env with rx := rest }, trace := s.trace ++ [.rx a] }

/-- The store of RX_POLL (R142): an eleventh byte raises `Fault(AduOverrun)` before any store (R66, R190); a cursor
beyond 10 names no byte (log entry 20). -/
def storeByte (b : Byte) (s : State) : Result :=
  if s.t.cursor = 10 then .next (raiseAduOverrun s)
  else if s.t.cursor.toNat < aduCap then
    .next { s with
      adu := aduWrite s.adu s.t.cursor.toNat b
      t := { s.t with cursor := s.t.cursor + 1, bytesRemaining := s.t.bytesRemaining - 1 }
      phase := .rxHeader }
  else .fault (.noSuchByte s.t.cursor.toNat)

/-- Phase RX_POLL (R142): at most one byte. -/
def execRxPoll (s : State) : Result :=
  match s.env.rx with
  | [] => hold .rxPoll s
  | none :: rest => .next ((takePoll s none rest).setPhase .rxHeader)
  | some b :: rest => storeByte b (takePoll s (some b) rest)

/-- Phase RX_HEADER (R143): with five bytes in, the three checks and the reload with the declared count (C1). -/
def execRxHeader (s : State) : Result :=
  if s.t.cursor = BitVec.ofNat 4 hdrLen then
    withAdu s 0 fun b0 => withAdu s 1 fun b1 => withAdu s 2 fun b2 =>
      .next { s with
        t := { s.t with
          status := headerStatus s.t.slaveId s.t.functionCode b0 b1 s.t.status
          bytesRemaining := declaredCount b2 }
        phase := .rxDeadline }
  else .next (s.setPhase .rxDeadline)

/-- Phase RX_DEADLINE (R144) and the loop test (R145). -/
def execRxDeadline (s : State) : Result :=
  match s.env.now with
  | [] => hold .rxDeadline s
  | now :: rest =>
    .next { s with
      t := { s.t with status := deadlineStatus s.t.startMs s.cfg.timeoutMs now s.t.status }
      env := { s.env with now := rest }
      trace := s.trace ++ [.now now]
      phase :=
        if loopContinues s.t.bytesRemaining (deadlineStatus s.t.startMs s.cfg.timeoutMs now s.t.status) then .rxPoll
        else .crcCheck }

/-- Phase CRC_CHECK (R146): only over `OK` and with at least five bytes. The fold leaves its CRC in `t.crc` (log entry 12). -/
def execCrcCheck (s : State) : Result :=
  if s.t.status = .ok ∧ hdrLen ≤ s.t.cursor.toNat then
    withAduPrefix s s.t.cursor.toNat fun bytes =>
      .next { s with
        t := { s.t with status := crcStatus bytes s.t.status, crc := crc16 (crcBody bytes) }
        phase := .decode }
  else .next (s.setPhase .decode)

end Sys2Proof.Machine
end

