-- ==== Sys2Proof/Machine/Transmit.lean ====
section
/-! DEFINITION. The transmit half of a transaction: BUILD (spec 41_frame_builder R113) and the transmit-enable sequencer
TX_ASSERT, TX_WRITE, TX_DRAIN, TX_RELEASE (42_commands_and_transmit R124 to R127). -/

namespace Sys2Proof.Machine

/-- Phase BUILD (R113): the request goes to `adu[0..7]`; `adu[8]` and `adu[9]` are not written. The fold leaves its CRC in
the scratch register `t.crc` (R30; log entry 12). -/
def execBuild (s : State) : Result :=
  .next { s with
    adu := aduWriteList s.adu 0 (buildReadRequest s.t.slaveId s.t.regAddr s.t.regCount)
    t := { s.t with crc := crc16 (requestBody s.t.slaveId s.t.regAddr s.t.regCount) }
    phase := .txAssert }

/-- `if cfg.txen_present == 1: TxEn(v)` (R124, R127). -/
def driveIfPresent (v : Bool) (s : State) : State := if s.cfg.txenPresent then s.driveTxEn v else s

/-- Phase TX_ASSERT (R124). -/
def execTxAssert (s : State) : Result :=
  .next { driveIfPresent true s with t := { s.t with txIdx := 0 }, phase := .txWrite }

/-- Phase TX_WRITE (R125): one byte, in the cycle in which the transport takes it. Log entries 3, 24. -/
def execTxWrite (s : State) : Result :=
  match s.env.txReady with
  | [] => hold .txWrite s
  | false :: rest => hold .txWrite { s with env := { s.env with txReady := rest } }
  | true :: rest =>
    withAdu s s.t.txIdx.toNat fun b =>
      .next { s with
        t := { s.t with txIdx := s.t.txIdx + 1 }
        env := { s.env with txReady := rest }
        trace := s.trace ++ [.tx b]
        phase := if s.t.txIdx + 1 = 8 then .txDrain else .txWrite }

/-- Phase TX_DRAIN (R126): `done` or `expired`, the sequencer goes on either way. -/
def execTxDrain (s : State) : Result :=
  match s.env.drain with
  | [] => hold .txDrain s
  | a :: rest => .next { s with env := { s.env with drain := rest }, trace := s.trace ++ [.drain a], phase := .txRelease }

/-- Phase TX_RELEASE (R127). -/
def execTxRelease (s : State) : Result := .next ((driveIfPresent false s).setPhase .rxArm)

end Sys2Proof.Machine
end

