-- ==== Sys2Proof/Machine/Dispatch.lean ====
section
/-! DEFINITION. The dispatch of an instruction to its meaning, one arm per constructor of Instr. -/

namespace Sys2Proof.Machine

def exec (i : Instr) (s : State) : Host.Outcome State Fault Refusal :=
  match i with
  -- format CMD
  | .setup txenPresent timeoutMs bigEndian regSwap lineCfg => Sys2Proof.Machine.execSetup txenPresent timeoutMs bigEndian regSwap lineCfg s
  | .rdhr slaveId regAddr regCount => Sys2Proof.Machine.execRdhr slaveId regAddr regCount s
  -- format FUNC
  | .crc16Update crc b => Sys2Proof.Machine.execCrc16Update crc b s
  | .crc16 bytes => Sys2Proof.Machine.execCrc16 bytes s
  | .buildReadRequest slaveId registerAddress registerCount => Sys2Proof.Machine.execBuildReadRequest slaveId registerAddress registerCount s
  | .decode16 d0 d1 bigEndian => Sys2Proof.Machine.execDecode16 d0 d1 bigEndian s
  | .decode32 d0 d1 d2 d3 bigEndian regSwap => Sys2Proof.Machine.execDecode32 d0 d1 d2 d3 bigEndian regSwap s
  -- format PHASE
  | .idle => Sys2Proof.Machine.execIdle s
  | .setupCfg => Sys2Proof.Machine.execSetupCfg s
  | .build => Sys2Proof.Machine.execBuild s
  | .txAssert => Sys2Proof.Machine.execTxAssert s
  | .txWrite => Sys2Proof.Machine.execTxWrite s
  | .txDrain => Sys2Proof.Machine.execTxDrain s
  | .txRelease => Sys2Proof.Machine.execTxRelease s
  | .rxArm => Sys2Proof.Machine.execRxArm s
  | .rxPoll => Sys2Proof.Machine.execRxPoll s
  | .rxHeader => Sys2Proof.Machine.execRxHeader s
  | .rxDeadline => Sys2Proof.Machine.execRxDeadline s
  | .crcCheck => Sys2Proof.Machine.execCrcCheck s
  | .decode => Sys2Proof.Machine.execDecode s
  | .respond => Sys2Proof.Machine.execRespond s
  | .fault => Sys2Proof.Machine.execFault s
  -- format ADU
  | .reqRdhr slaveId regAddr regCount crcLo crcHi => Sys2Proof.Machine.execReqRdhr slaveId regAddr regCount crcLo crcHi s
  | .rspNormal responder byteCount data crcLo crcHi => Sys2Proof.Machine.execRspNormal responder byteCount data crcLo crcHi s
  | .rspException responder function code crcLo crcHi => Sys2Proof.Machine.execRspException responder function code crcLo crcHi s

end Sys2Proof.Machine
end

