-- ==== Sys2Proof/Machine/Fetch.lean ====
section
/-! DEFINITION. What the next step performs (spec 00_scope R5: the program counter is `phase`; 42 R120: in IDLE an
offered command is accepted), and how an encoded instruction is placed so that the next step performs it. -/

namespace Sys2Proof.Machine

/-- The encoded form of what the next step performs: a frame crossing the link (an action of the environment, R8), else
in IDLE the command at the port (R39, R120), else the phase (R31). -/
def fetch (s : State) : Encoded :=
  match s.env.wire, s.phase, s.env.cmds with
  | f :: _, _, _ => .adu f.dir f.bytes
  | [], .idle, c :: _ => .cmd c
  | [], p, _ => .phase (phaseCode p)

/-- A step whose form is no instruction: only a frame on the wire can be one, and its bytes cross the link all the same
(R187: "a byte it delivers is simply a byte"). Log entry 15. -/
def undecoded (s : State) : State :=
  match s.env.wire with
  | f :: _ => deliver f.dir f.bytes s
  | [] => s

/-- Put an encoded instruction where the next step finds it: a command at the port of an idle block, a phase in the phase
register, a frame on the wire. A functional-unit operation has no place, since nothing selects it (R94). Log entry 21. -/
def place : Encoded → State → State
  | .cmd c, s =>
    { s with phase := .idle, env := { s.env with rst := [], wire := [], cmds := c :: s.env.cmds } }
  | .func _ _, s => s
  | .phase code, s =>
    match phaseOfCode code with
    | some .idle => { s with phase := .idle, env := { s.env with rst := [], wire := [], cmds := [] } }
    | some p => { s with phase := p, env := { s.env with rst := [], wire := [] } }
    | none => s
  | .adu dir bytes, s => { s with env := { s.env with rst := [], wire := ⟨dir, bytes⟩ :: s.env.wire } }

end Sys2Proof.Machine
end

