-- ==== Sys2Proof/Machine/Step.lean ====
section
/-! DEFINITION. One step of the machine (spec 00_scope R8: one phase rule is one atomic step; R181: reset acts in every
phase) and the placing of a table word. -/

namespace Sys2Proof.Machine

/-- The step when reset is not asserted: fetch, decode, execute. -/
def perform (s : State) : Host.Outcome State Fault Refusal :=
  match decode (fetch s) with
  | .ok i => exec i s
  | .error _ => .next (undecoded s)

/-- One step: the sample of `rst` decides between reset (R200) and the step of the sequencer. -/
def step (s : State) : Host.Outcome State Fault Refusal :=
  match s.env.rst with
  | true :: _ => .next (resetBlock s)
  | false :: _ => perform (dropRst s)
  | [] => perform s

/-- The state with the instruction of a table word placed where the next step fetches it (log entries 17, 21). -/
def State.withFetchWord (s : State) (nbits w : Nat) : State :=
  match decodeTableWord nbits w with
  | some i => place (encode i) s
  | none => s

end Sys2Proof.Machine
end

