-- ==== Sys2Proof/Machine/BigStep.lean ====
section
/-! DEFINITION. The receive loop as one function (spec 43_receive_parser R152), written from that rule apart from the
phases, so that the phases can be held against it. -/

namespace Sys2Proof.Machine

/-- The state `(buf, rem, st)` of R152. -/
structure Loop where
  buf : List Byte
  rem : Byte
  st : Status
  deriving DecidableEq, Repr

/-- Where the loop of R152 starts: `([], 5, OK)`. -/
def Loop.start : Loop := { buf := [], rem := 5, st := .ok }

/-- `hdr(buf, st)` of R152; R152 applies it to buffers of five bytes. -/
def loopHeader (slave : Byte) (buf : List Byte) (st : Status) : Status :=
  let s1 := if buf.getD 0 0 ≠ slave then .incorrectSlaveId else st
  let s2 := if buf.getD 1 0 &&& 0x7F ≠ 0x03 then .incorrectFunction else s1
  if buf.getD 1 0 &&& 0x80 ≠ 0 then .modbusException else s2

/-- One iteration of R152 on an answer `(r, n)`; `none` is `Fault(AduOverrun)`. -/
def loopStep (slave : Byte) (timeout t0 : Word) (l : Loop) (answer : PollAnswer × Word) : Option Loop :=
  if answer.1.isSome ∧ l.buf.length = 10 then none
  else
    let buf1 := l.buf ++ answer.1.toList
    let rem1 := if answer.1.isSome then l.rem - 1 else l.rem
    let rem2 := if buf1.length = 5 then buf1.getD 2 0 &&& 0x7F else rem1
    let st2 := if buf1.length = 5 then loopHeader slave buf1 l.st else l.st
    let st3 := if timeout < answer.2 - t0 then .timeout else st2
    some { buf := buf1, rem := rem2, st := st3 }

/-- How the loop of R152 stands after some answers. -/
inductive LoopEnd where
  /-- It ended: the last state, and how many answers it took. -/
  | ended (l : Loop) (iterations : Nat)
  /-- `Fault(AduOverrun)` in the iteration of that number, counted from 1. -/
  | overrun (iterations : Nat)
  /-- The answers are used up and the loop goes on. -/
  | running (l : Loop)
  deriving DecidableEq, Repr

/-- One more iteration counted. -/
def LoopEnd.later : LoopEnd → LoopEnd
  | .ended l n => .ended l (n + 1)
  | .overrun n => .overrun (n + 1)
  | .running l => .running l

/-- Iterate `loopStep` while `rem > 0 and st == OK` (R152). -/
def loopRun (slave : Byte) (timeout t0 : Word) : List (PollAnswer × Word) → Loop → LoopEnd
  | answers, l =>
    if l.rem = 0 ∨ l.st ≠ .ok then .ended l 0
    else
      match answers with
      | [] => .running l
      | a :: rest =>
        match loopStep slave timeout t0 l a with
        | none => .overrun 1
        | some l' => (loopRun slave timeout t0 rest l').later

/-- `st_final` of R152. -/
def loopFinal (l : Loop) : Status :=
  if l.st = .ok ∧ l.buf.drop (l.buf.length - 2) ≠ crcTrailer (l.buf.take (l.buf.length - 2)) then .crcError else l.st

end Sys2Proof.Machine
end

