-- ==== Sys2Proof/Machine/Ports.lean ====
section
/-! DEFINITION. The ports of the block (spec 10_state R38 to R40): every output as a function of the state, the response
word (30_encoding R95), and the port-level form of each primitive (60_exceptions R184, R185; 42 R123, R125, R128): how
samples of the input ports make the answer that stands in `env`. -/

namespace Sys2Proof.Machine

/-- The status codes at `rsp_status` (R89); `0b111` is never produced. -/
def statusCode : Status → BitVec 3
  | .ok => 0b000
  | .notInitialized => 0b001
  | .incorrectSlaveId => 0b010
  | .incorrectFunction => 0b011
  | .modbusException => 0b100
  | .timeout => 0b101
  | .crcError => 0b110

/-- The output ports that always hold a defined value (R38). The fields of the response are `responseOf`. -/
structure Outputs where
  cmdReady : Bool
  rspValid : Bool
  tcfgValid : Bool
  txValid : Bool
  rxReady : Bool
  txEn : Bool
  fault : Bool
  deriving DecidableEq, Repr

/-- The outputs in a state (R38): each handshake output is 1 exactly in its phase. -/
def outputs (s : State) : Outputs :=
  { cmdReady := decide (s.phase = .idle), rspValid := decide (s.phase = .respond),
    tcfgValid := decide (s.phase = .setupCfg), txValid := decide (s.phase = .txWrite),
    rxReady := decide (s.phase = .rxPoll), txEn := s.txEn, fault := s.fault }

/-- `tcfg_line` while `tcfg_valid` is 1 (R123). -/
def tcfgLine (s : State) : BitVec Config.lcw := s.cfg.lineCfg

/-- `tx_data` while `tx_valid` is 1 (R125). -/
def txData (s : State) : Option Byte := aduRead s.adu s.t.txIdx.toNat

/-- The response as one word (R95): `rsp_is_setup`, `rsp_setup_ok`, `rsp_status`, `rsp_result`; `none` is a bit of no
meaning. -/
def responseWord : Response → List (Option Bool)
  | .setup ok => some true :: some ok :: List.replicate 35 none
  | .rdhr status result =>
    some false :: none :: ((bitsOf 3 (statusCode status).toNat ++ bitsOf 32 result.toNat).map some)

/-- One cycle's sample of the receive port and the clock. -/
structure RxSample where
  valid : Bool
  data : Byte
  ms : Word
  deriving DecidableEq, Repr

/-- `RxPoll()` at the ports (R142, R184): a byte as soon as one is presented, none when `pollMs` milliseconds have passed
since the phase began; a byte present at the instant of expiry is taken. `none` on the left: not returned yet. -/
def pollAtPorts (pollMs : Nat) (start : Word) : List RxSample → Option PollAnswer
  | [] => none
  | x :: rest =>
    if x.valid then some (some x.data)
    else if pollMs ≤ (elapsed start x.ms).toNat then some none
    else pollAtPorts pollMs start rest

/-- One cycle's sample of `tx_idle` and the clock. -/
structure DrainSample where
  idle : Bool
  ms : Word
  deriving DecidableEq, Repr

/-- `TxDrain()` at the ports (R126, R185): done as soon as `tx_idle` is seen, expired when `maxMs` milliseconds have passed
since the call; `tx_idle` at the instant of expiry counts as done. -/
def drainAtPorts (maxMs : Nat) (start : Word) : List DrainSample → Option DrainAnswer
  | [] => none
  | x :: rest =>
    if x.idle then some .done
    else if maxMs ≤ (elapsed start x.ms).toNat then some .expired
    else drainAtPorts maxMs start rest

/-- `TransportConfigure` at the ports (R123): `tcfg_ok` in the first cycle with `tcfg_done = 1`; samples `(done, ok)`. -/
def configureAtPorts : List (Bool × Bool) → Option ConfigureAnswer
  | [] => none
  | (done, ok) :: rest => if done then some (if ok then .ok else .fail) else configureAtPorts rest

/-- The environment answers the poll by what the ports show while `rx_ready` is 1; `POLL_MS` is the configured one (R184).
One poll has one answer: where the transport already presents one, it stands. -/
def answerPoll (start : Word) (samples : List RxSample) (s : State) : State :=
  match pollAtPorts Config.pollMs start samples with
  | some a => if (outputs s).rxReady ∧ s.env.rx = [] then { s with env := { s.env with rx := [a] } } else s
  | none => s

/-- The environment answers the drain by what the ports show in TX_DRAIN; `TX_DRAIN_MAX_MS` is the configured one (R185). -/
def answerDrain (start : Word) (samples : List DrainSample) (s : State) : State :=
  match drainAtPorts Config.txDrainMaxMs start samples with
  | some a => if s.phase = .txDrain then { s with env := { s.env with drain := [a] } } else s
  | none => s

/-- The environment answers the configuration by what the ports show while `tcfg_valid` is 1 (R123). -/
def answerConfigure (samples : List (Bool × Bool)) (s : State) : State :=
  match configureAtPorts samples with
  | some a => if (outputs s).tcfgValid then { s with env := { s.env with configure := [a] } } else s
  | none => s

/-- The host offers a command; it waits at the port until the block is in IDLE (R39, R204). -/
def offerCommand (c : CmdPort) (s : State) : State := { s with env := { s.env with cmds := s.env.cmds ++ [c] } }

/-- One cycle's sample of `tx_ready`: it moves a byte only in a cycle in which `tx_valid` is 1 (R38), and no sample of an
earlier cycle is kept. -/
def sampleTxReady (ready : Bool) (s : State) : State :=
  { s with env := { s.env with txReady := if (outputs s).txValid then [ready] else [] } }

/-- One cycle's sample of `rsp_ready`: it takes the response only in a cycle in which `rsp_valid` is 1 (R38, R40), and no
sample of an earlier cycle is kept. -/
def sampleRspReady (ready : Bool) (s : State) : State :=
  { s with env := { s.env with rspReady := if (outputs s).rspValid then [ready] else [] } }

/-- The phases that call `Now()` (R141, R144). -/
def callsNow : Phase → Bool
  | .rxArm | .rxDeadline => true
  | .idle | .setupCfg | .build | .txAssert | .txWrite | .txDrain | .txRelease | .rxPoll | .rxHeader | .crcCheck | .decode
  | .respond | .fault => false

/-- One cycle's value of `ms_now`: it is what `Now()` returns in a cycle in which `Now()` is called (R38, R186), and no value
of an earlier cycle is kept. -/
def sampleClock (msNow : Word) (s : State) : State :=
  { s with env := { s.env with now := if callsNow s.phase then [msNow] else [] } }

end Sys2Proof.Machine
end

