-- ==== Sys2Proof/Safety.lean ====
section
/-! DEFINITION. What a safe state is: the invariant of the block, written from the derived laws of the spec (10_state R33,
R35, R42; 20_memory R71; 42 R130, R131; 43 R147, R150; 60 R177, R179), the successor table (42 R131), and the premises
about the environment (60 R189). -/

namespace Sys2Proof.Machine

/-- The first `n` bytes of the buffer have been written. -/
abbrev BytesPresent (s : State) (n : Nat) : Prop := ∀ i < n, (aduRead s.adu i).isSome = true

/-- The byte at `i`, where it has been written. -/
def byteAt (s : State) (i : Nat) : Byte := (aduRead s.adu i).getD 0

/-- `N`, the declared data byte count (R86), where byte 2 has been received. -/
def declaredN (s : State) : Nat := (declaredCount (byteAt s 2)).toNat

/-- The received bytes `adu[0 .. cursor-1]`. -/
def received (s : State) : List Byte := (List.range s.t.cursor.toNat).map (byteAt s)

/-- None of the three header checks holds of the first two bytes (R143). -/
abbrev HeaderOk (s : State) : Prop :=
  byteAt s 0 = s.t.slaveId ∧ byteAt s 1 &&& 0x7F = s.t.functionCode ∧ byteAt s 1 &&& 0x80 = 0

/-- Fewer than five bytes are in: the counters add up to five (R141, R142). -/
abbrev HeaderPending (s : State) : Prop :=
  s.t.cursor.toNat < 5 ∧ s.t.cursor.toNat + s.t.bytesRemaining.toNat = 5

/-- Five bytes or more are in: the counters add up to `5 + N` (R143, R150). -/
abbrev PayloadPending (s : State) : Prop :=
  5 ≤ s.t.cursor.toNat ∧ s.t.cursor.toNat ≤ 10 ∧ s.t.cursor.toNat + s.t.bytesRemaining.toNat = 5 + declaredN s

/-- The request stands in `adu[0..7]` (R65, R113). -/
abbrev RequestStaged (s : State) : Prop :=
  (List.range 8).map (aduRead s.adu) = (buildReadRequest s.t.slaveId s.t.regAddr s.t.regCount).map some

/-- A transaction is under way that passed the precondition check: configured, the function code and the sentinel written
at acceptance (R22, R24, R26). -/
abbrev InTransaction (s : State) : Prop :=
  s.cfg.configured = true ∧ s.t.functionCode = functionCode ∧ s.t.result = sentinel ∧ s.rspIsSetup = false

/-- What holds in each phase. -/
def PhaseInv (s : State) : Prop :=
  match s.phase with
  | .idle => True
  | .setupCfg => s.cfg.setupSeen = true
  | .build => InTransaction s ∧ s.t.status = .ok
  | .txAssert => InTransaction s ∧ s.t.status = .ok ∧ RequestStaged s
  | .txWrite => InTransaction s ∧ s.t.status = .ok ∧ RequestStaged s ∧ s.t.txIdx.toNat < 8
  | .txDrain => InTransaction s ∧ s.t.status = .ok ∧ RequestStaged s ∧ s.t.txIdx.toNat = 8
  | .txRelease => InTransaction s ∧ s.t.status = .ok ∧ RequestStaged s ∧ s.t.txIdx.toNat = 8
  | .rxArm => InTransaction s ∧ s.t.status = .ok ∧ RequestStaged s ∧ s.t.txIdx.toNat = 8
  | .rxPoll =>
    InTransaction s ∧ s.t.status = .ok ∧ BytesPresent s s.t.cursor.toNat ∧ 0 < s.t.bytesRemaining.toNat ∧
      (HeaderPending s ∨ (PayloadPending s ∧ HeaderOk s))
  | .rxHeader =>
    InTransaction s ∧ s.t.status = .ok ∧ BytesPresent s s.t.cursor.toNat ∧
      (HeaderPending s ∨ s.t.cursor.toNat = 5 ∨ (PayloadPending s ∧ HeaderOk s))
  | .rxDeadline =>
    InTransaction s ∧ BytesPresent s s.t.cursor.toNat ∧
      ((HeaderPending s ∧ s.t.status = .ok) ∨
        (PayloadPending s ∧ HeaderOk s ∧ s.t.status = .ok) ∨
        (PayloadPending s ∧ s.t.cursor.toNat = 5 ∧
          (s.t.status = .incorrectSlaveId ∨ s.t.status = .incorrectFunction ∨ s.t.status = .modbusException)))
  | .crcCheck =>
    InTransaction s ∧ BytesPresent s s.t.cursor.toNat ∧
      ((s.t.status = .ok ∧ HeaderOk s ∧ s.t.cursor.toNat = 5 + declaredN s ∧ s.t.cursor.toNat ≤ 10) ∨
        (s.t.cursor.toNat = 5 ∧
          (s.t.status = .incorrectSlaveId ∨ s.t.status = .incorrectFunction ∨ s.t.status = .modbusException)) ∨
        (s.t.status = .timeout ∧ s.t.cursor.toNat ≤ 10))
  | .decode =>
    InTransaction s ∧ BytesPresent s s.t.cursor.toNat ∧ s.t.status ≠ .notInitialized ∧
      (s.t.status = .ok →
        HeaderOk s ∧ s.t.cursor.toNat = 5 + declaredN s ∧ s.t.cursor.toNat ≤ 10 ∧
          trailerMatches (received s) = true)
  | .respond =>
    if s.rspIsSetup then s.cfg.setupSeen = true ∧ s.rspSetupOk = s.cfg.configured
    else (s.t.status ≠ .ok → s.t.result = sentinel) ∧ (s.t.status = .notInitialized ↔ s.cfg.configured = false)
  | .fault => InTransaction s ∧ s.t.cursor.toNat = 10 ∧ 5 < declaredN s

/-- The phases in which the transmit-enable line of a half-duplex link is asserted (R130). -/
def transmits : Phase → Bool
  | .txWrite | .txDrain | .txRelease => true
  | .idle | .setupCfg | .build | .txAssert | .rxArm | .rxPoll | .rxHeader | .rxDeadline | .crcCheck | .decode | .respond
  | .fault => false

/-- The invariant of the block. -/
structure Inv (s : State) : Prop where
  /-- The buffer keeps its canonical form. -/
  adu : AduWf s.adu
  /-- `fault` is 1 exactly while `phase == FAULT` (R42). -/
  fault : s.fault = decide (s.phase = .fault)
  /-- `tx_en` is 1 exactly between TX_ASSERT and TX_RELEASE of a half-duplex transaction (R33, R130). -/
  txEn : s.txEn = (s.cfg.txenPresent && transmits s.phase)
  /-- What has crossed to the slave is what the block handed over first (R72). -/
  line : s.line.flatten <+: txBytes s.trace
  /-- Only an accepted SETUP configures (R22, R23). -/
  configured : s.cfg.configured = true → s.cfg.setupSeen = true
  /-- What the phase relies on. -/
  phase : PhaseInv s

/-- The successor table (R131) with its conditions, for a step of the sequencer from `s` to `t`. A phase whose primitive
has not returned stays (R193). -/
def SuccessorOk (s t : State) : Prop :=
  match s.phase with
  | .idle =>
    (t.phase = .idle ∧ s.env.cmds = []) ∨
      (t.phase = .setupCfg ∧ s.cfg.setupSeen = false ∧ ∃ c rest, s.env.cmds = c :: rest ∧ c.op = 0) ∨
      (t.phase = .respond ∧ s.cfg.configured = false ∧ ∃ c rest, s.env.cmds = c :: rest ∧ c.op = 1) ∨
      (t.phase = .build ∧ s.cfg.configured = true ∧ ∃ c rest, s.env.cmds = c :: rest ∧ c.op = 1)
  | .setupCfg => t.phase = (if s.env.configure = [] then .setupCfg else .respond)
  | .build => t.phase = .txAssert
  | .txAssert => t.phase = .txWrite
  | .txWrite =>
    t.phase =
      (match s.env.txReady with
        | true :: _ => if t.t.txIdx = 8 then .txDrain else .txWrite
        | false :: _ | [] => .txWrite)
  | .txDrain => t.phase = (if s.env.drain = [] then .txDrain else .txRelease)
  | .txRelease => t.phase = .rxArm
  | .rxArm => t.phase = (if s.env.now = [] then .rxArm else .rxPoll)
  | .rxPoll =>
    t.phase =
      (match s.env.rx with
        | [] => .rxPoll
        | none :: _ => .rxHeader
        | some _ :: _ => if s.t.cursor = 10 then .fault else .rxHeader)
  | .rxHeader => t.phase = .rxDeadline
  | .rxDeadline =>
    t.phase =
      (if s.env.now = [] then .rxDeadline
        else if 0 < t.t.bytesRemaining.toNat ∧ t.t.status = .ok then .rxPoll
        else .crcCheck)
  | .crcCheck => t.phase = .decode
  | .decode => t.phase = .respond
  | .respond =>
    t.phase =
      (match s.env.rspReady with
        | true :: _ => .idle
        | false :: _ | [] => .respond)
  | .fault => t.phase = .fault

/-- The machine's state stands for the state `(buf, rem, st)` of R152: the buffer's first `cursor` bytes are `buf`. -/
structure Abstracts (l : Loop) (s : State) : Prop where
  cursor : s.t.cursor.toNat = l.buf.length
  fits : l.buf.length ≤ aduCap
  bytes : ∀ i < l.buf.length, aduRead s.adu i = l.buf[i]?
  remaining : s.t.bytesRemaining = l.rem
  status : s.t.status = l.st

/-- A state at the head of the receive loop, undisturbed by reset or frames, with the function code of the acceptance
(R122) and these answers to come. -/
structure LoopReady (s : State) (rx : List PollAnswer) (now : List Word) : Prop where
  phase : s.phase = .rxPoll
  function : s.t.functionCode = 0x03
  rst : s.env.rst = []
  wire : s.env.wire = []
  rx : s.env.rx = rx
  now : s.env.now = now

/-- EA1 and EA2 (R189) on the answers of the receive loop, with the longest iteration of R148: the times `T` are true
milliseconds, they never go back, a poll that returns none lasts at least `pollMs`, and no iteration lasts longer than
`pollMs + d`. -/
def TimedAnswers (pollMs d : Nat) : Nat → List (PollAnswer × Nat) → Prop
  | _, [] => True
  | last, (r, now) :: rest =>
    last ≤ now ∧ now ≤ last + pollMs + d ∧ (r = none → last + pollMs ≤ now) ∧ TimedAnswers pollMs d now rest

/-- The samples `Now()` gives for true times: the time modulo `2^32` (R186). -/
def sampled (answers : List (PollAnswer × Nat)) : List (PollAnswer × Word) :=
  answers.map (fun a => (a.1, BitVec.ofNat 32 a.2))

end Sys2Proof.Machine
end

