-- ==== Sys2Proof/Certificates/Slice0/Obligations.lean ====
section
/-! DEFINITION. The statements for the provers. Each is written from the rule of spec/ that its docstring names. -/

open Sys2Proof Sys2Proof.Machine

/-! ### Encodings -/

/-- O1. Decoding an encoded well-formed instruction gives it back, for every row of the table (30_encoding R81 to R94). -/
def Obligations.DecodeInvertsEncode : Prop :=
  ∀ i : Instr, i.wf = true → decode (encode i) = .ok i

/-- O2. Each phase code, frame and operand list has one meaning: what the decoder reads, the encoder writes back
(30_encoding R84, R86, R87, R90). The unused ports of a command may hold anything (93 U6), so commands are left to O3. -/
def Obligations.EncodeInvertsDecode : Prop :=
  ∀ (e : Encoded) (i : Instr), decode e = .ok i → (∀ port, e ≠ .cmd port) → encode i = e

/-- O3. The command words of R82 and R83 stand for what is offered at the command port, and have 33 bits for RDHR and
36 + LCW bits for SETUP. -/
def Obligations.CommandWordsStandForThePorts : Prop :=
  ∀ p : CmdPort,
    decodeCmdWord (wordOfPort p) = .ok (decodeCmd p) ∧
      (wordOfPort p).length = (if p.op = 1 then 33 else 36 + Config.lcw)

/-- O4. The phase codes 0 to 14 are the fifteen phases in the order of R90; code 15 is no phase. -/
def Obligations.PhaseCodesAreTheFifteen : Prop :=
  ((List.range 16).map fun c => decode (.phase (BitVec.ofNat 4 c))) =
    ([.idle, .setupCfg, .build, .txAssert, .txWrite, .txDrain, .txRelease, .rxArm, .rxPoll, .rxHeader, .rxDeadline,
      .crcCheck, .decode, .respond, .fault].map Except.ok) ++ [.error .noSuchPhase]

/-- O5. Words of the spec decode to the instructions they stand for: the command words of 95 (2.2; SETUP of part 3, P2,
with any line word in its `LCW` bits, R82), the frames B1, X1 and X6, a phase code (R90); and the vector U1 as operands of
CRC16_UPDATE, whose packing into bytes is the model's choice (log entry 14: R94 gives the row no bits). -/
def Obligations.SpecWordsDecode : Prop :=
  decodeCmdWord (bitsOf 33 0x101000001) = .ok (.rdhr 1 0 1) ∧
    decodeCmdWord (bitsOf 33 0x1F7FFFF02) = .ok (.rdhr 247 0xFFFF 2) ∧
    (∀ line : BitVec Config.lcw,
      decodeCmdWord (false :: true :: (bitsOf 32 1000 ++ true :: false :: bitsOf Config.lcw line.toNat)) =
        .ok (.setup true 1000 true false line)) ∧
    decode (.adu .toSlave [0x01, 0x03, 0x00, 0x00, 0x00, 0x01, 0x84, 0x0A]) = .ok (.reqRdhr 1 0 1 0x84 0x0A) ∧
    decode (.adu .fromSlave [0x01, 0x03, 0x02, 0x12, 0x34, 0xB5, 0x33]) =
      .ok (.rspNormal 1 2 [0x12, 0x34] 0xB5 0x33) ∧
    decode (.adu .fromSlave [0x01, 0x83, 0x02, 0xC0, 0xF1]) = .ok (.rspException 1 3 2 0xC0 0xF1) ∧
    decode (.phase 0b1011) = .ok .crcCheck ∧
    decode (.func .crc16Update [0xFF, 0xFF, 0x01]) = .ok (.crc16Update 0xFFFF 0x01)

/-! ### CRC engine and frame builder -/

/-- O6. CRC16_UPDATE (R101) as its pseudocode: the byte enters the low eight bits, eight shifts with the constant after
the shift; nothing but the unit's output changes (R94, R100). -/
def Obligations.CrcUpdateIsEightShiftXorSteps : Prop :=
  ∀ (s : State) (crc : Half) (b : Byte),
    exec (.crc16Update crc b) s =
      .next { s with
        fuOut := some (.crc ((List.range 8).foldl
          (fun c _ => if c.getLsbD 0 then (c >>> 1) ^^^ 0xA001 else c >>> 1) (crc ^^^ (0#8 ++ b)))) }

/-- O7. For a fixed byte CRC16_UPDATE is a bijection on the CRC, for a fixed CRC it is injective in the byte (R101). -/
def Obligations.CrcUpdateLosesNothing : Prop :=
  (∀ b : Byte, Function.Bijective fun crc => crc16Update crc b) ∧
    ∀ crc : Half, Function.Injective fun b => crc16Update crc b

/-- O8. CRC16 (R102) folds CRC16_UPDATE over the bytes, first to last, from the seed `0xFFFF`; the empty sequence gives
the seed (R103); the value depends on the bytes alone. -/
def Obligations.CrcFoldsTheBytesFromTheSeed : Prop :=
  (∀ (s : State) (bytes : List Byte),
    exec (.crc16 bytes) s = .next { s with fuOut := some (.crc (bytes.foldl crc16Update 0xFFFF)) }) ∧
    crc16 [] = 0xFFFF ∧
    ∀ (bytes : List Byte) (b : Byte), crc16 (bytes ++ [b]) = crc16Update (crc16 bytes) b

/-- O9. The residue law (R105): a sequence followed by its CRC, low byte first, has CRC zero; and so the comparison of R146
says of any sequence of two bytes or more that its CRC is zero. -/
def Obligations.CrcResidueIsZero : Prop :=
  (∀ m : List Byte, crc16 (m ++ [(crc16 m).extractLsb' 0 8, (crc16 m).extractLsb' 8 8]) = 0x0000) ∧
    ∀ bytes : List Byte, 2 ≤ bytes.length → (trailerMatches bytes = true ↔ crc16 bytes = 0x0000)

/-- O10. BUILD_READ_REQUEST (R111): the eight bytes of the frame for every operand triple; different operands give
different frames; nothing but the unit's output changes. -/
def Obligations.BuildReadRequestGivesTheFrame : Prop :=
  (∀ (s : State) (slave : Byte) (addr : Half) (count : Byte),
    let body : List Byte :=
      [slave, 0x03, (addr >>> 8).setWidth 8, addr.setWidth 8, 0x00, count]
    exec (.buildReadRequest slave addr count) s =
      .next { s with
        fuOut := some (.frame (body ++ [(crc16 body).setWidth 8, (crc16 body >>> 8).setWidth 8])) }) ∧
    ∀ (a b : Byte × Half × Byte),
      buildReadRequest a.1 a.2.1 a.2.2 = buildReadRequest b.1 b.2.1 b.2.2 → a = b

/-- O11. Phase BUILD (R113): the request stands in `adu[0..7]`, every other byte reads as before, the sequencer goes to
TX_ASSERT, and nothing else changes but the scratch register `t.crc` (R30; the model's choice of its value: log entry 12). -/
def Obligations.BuildStagesTheRequest : Prop :=
  ∀ s : State, ∃ t, exec .build s = .next t ∧
    (∀ k < 8, aduRead t.adu k = (buildReadRequest s.t.slaveId s.t.regAddr s.t.regCount)[k]?) ∧
    (∀ k, 8 ≤ k → aduRead t.adu k = aduRead s.adu k) ∧
    (AduWf s.adu → AduWf t.adu) ∧
    ∃ crc, t = { s with adu := t.adu, t := { s.t with crc := crc }, phase := .txAssert }

/-! ### The register decoder -/

/-- O12. DECODE16 (R161): the first byte is high when `big_endian` is 1, low when it is 0; the upper half is zero;
nothing but the unit's output changes. -/
def Obligations.Decode16OrdersTheBytes : Prop :=
  ∀ (s : State) (d0 d1 : Byte) (be : Bool),
    exec (.decode16 d0 d1 be) s =
      .next { s with fuOut := some (.value (if be then 0#16 ++ d0 ++ d1 else 0#16 ++ d1 ++ d0)) }

/-- O13. DECODE32 (R162): the byte order inside each register, then the order of the two registers. -/
def Obligations.Decode32OrdersBytesAndRegisters : Prop :=
  ∀ (s : State) (d0 d1 d2 d3 : Byte) (be sw : Bool),
    exec (.decode32 d0 d1 d2 d3 be sw) s =
      .next { s with
        fuOut := some (.value
          (match be, sw with
            | true, false => d0 ++ d1 ++ d2 ++ d3
            | true, true => d2 ++ d3 ++ d0 ++ d1
            | false, false => d1 ++ d0 ++ d3 ++ d2
            | false, true => d3 ++ d2 ++ d1 ++ d0)) }

/-! ### Host commands, responses -/

/-- O14. SETUP in IDLE (R121): the first since reset stores the configuration and goes to SETUP_CFG, changing nothing
else but the offer taken from the port; a second one is refused. -/
def Obligations.SetupIsAcceptedOncePerReset : Prop :=
  ∀ (s : State) (txen : Bool) (ms : Word) (be sw : Bool) (line : BitVec Config.lcw), s.phase = .idle →
    (s.cfg.setupSeen = false →
      exec (.setup txen ms be sw line) s =
        .next { s with
          cfg := { lineCfg := line, txenPresent := txen, timeoutMs := ms, bigEndian := be, regSwap := sw,
                   configured := s.cfg.configured, setupSeen := true }
          env := { s.env with cmds := s.env.cmds.tail }
          phase := .setupCfg }) ∧
      (s.cfg.setupSeen = true → exec (.setup txen ms be sw line) s = .refused .secondSetup)

/-- O15. RDHR in IDLE (R122): the operands and the sentinel are written; an unconfigured block answers NotInitialized at
once, a configured one starts the transaction with status OK. -/
def Obligations.RdhrStartsOrFailsFast : Prop :=
  ∀ (s : State) (slave : Byte) (addr : Half) (count : Byte), s.phase = .idle →
    ∃ t, exec (.rdhr slave addr count) s = .next t ∧
      t.t = { s.t with
        slaveId := slave, functionCode := 0x03, regAddr := addr, regCount := count, result := 0xFFFFFFFF,
        status := t.t.status } ∧
      (s.cfg.configured = false → t.t.status = .notInitialized ∧ t.phase = .respond) ∧
      (s.cfg.configured = true → t.t.status = .ok ∧ t.phase = .build) ∧
      t = { s with
        t := t.t, phase := t.phase, rspIsSetup := false, env := { s.env with cmds := s.env.cmds.tail } }

/-- O16. A command offered outside IDLE is held at the port: the block shows `cmd_ready = 0` and nothing changes
(10_state R39, 93 U10). -/
def Obligations.CommandsWaitOutsideIdle : Prop :=
  ∀ s : State, s.phase ≠ .idle →
    (outputs s).cmdReady = false ∧
      (∀ txen ms be sw line, exec (.setup txen ms be sw line) s = .next s) ∧
      ∀ slave addr count, exec (.rdhr slave addr count) s = .next s

/-- O17. Phase IDLE (R120): with no command offered nothing changes and `cmd_ready` is 1; with one offered the step is its
acceptance, by `cmd_op`. -/
def Obligations.IdleWaitsOrAccepts : Prop :=
  ∀ s : State, s.phase = .idle →
    (outputs s).cmdReady = true ∧ (outputs s).rxReady = false ∧
      (s.env.cmds = [] → exec .idle s = .next s) ∧
      ∀ c rest, s.env.cmds = c :: rest →
        exec .idle s =
          if c.op = 0 then exec (.setup c.txenPresent c.timeoutMs c.bigEndian c.regSwap c.lineCfg) s
          else exec (.rdhr c.slaveId c.regAddr c.regCount) s

/-- O18. Phase SETUP_CFG (R123): `cfg.configured` and the response take the transport's answer, and the sequencer goes to
RESPOND; the answer is used up, and `t.status`, `tx_en` and every other register stay. That the trace shows the
configuration, with the line word and the answer, as one more event is the model's choice: R9 does not list it (log entry
16). -/
def Obligations.SetupCfgTakesTheAnswer : Prop :=
  ∀ (s : State) (a : ConfigureAnswer) (rest : List ConfigureAnswer), s.env.configure = a :: rest →
    ∃ t, exec .setupCfg s = .next t ∧
      (t.cfg.configured = true ↔ a = .ok) ∧ (t.rspSetupOk = true ↔ a = .ok) ∧
      t = { s with
        cfg := { s.cfg with configured := t.cfg.configured }
        rspIsSetup := true, rspSetupOk := t.rspSetupOk
        env := { s.env with configure := rest }
        trace := s.trace ++ [.configure s.cfg.lineCfg a]
        phase := .respond }

/-- O19. Phase RESPOND (R128, R40): in the cycle with `rsp_ready` 1 the host takes the response; that of an RDHR is
`(t.status, t.result)` and that of a SETUP its success; then IDLE, everything else as before. -/
def Obligations.RespondDeliversAndGoesIdle : Prop :=
  ∀ (s : State) (rest : List Bool), s.env.rspReady = true :: rest →
    exec .respond s =
      .next { s with
        env := { s.env with rspReady := rest }
        trace := s.trace ++
          [.respond (if s.rspIsSetup = true then .setup s.rspSetupOk else .rdhr s.t.status s.t.result)]
        phase := .idle }

/-- O20. Phase FAULT (R129): the state of a faulted block repeats for ever, with each of its five handshake outputs 0 and,
in a state of the invariant, `tx_en` 0; only reset leaves it. -/
def Obligations.FaultIsLeftByResetOnly : Prop :=
  ∀ s : State, s.phase = .fault → s.fault = true →
    exec .fault s = .next s ∧
      (outputs s).cmdReady = false ∧ (outputs s).rspValid = false ∧ (outputs s).txValid = false ∧
      (outputs s).tcfgValid = false ∧ (outputs s).rxReady = false ∧ (outputs s).fault = true ∧
      (Inv s → (outputs s).txEn = false) ∧
      (s.env.rst = [] → s.env.wire = [] → ∀ k, core.run k s = .next s) ∧
      ∀ rest, s.env.rst = true :: rest → ∃ t, step s = .next t ∧ t.phase = .idle ∧ t.fault = false

/-! ### The transmit half -/

/-- O21. Phase TX_ASSERT (R124): the line rises only where one is configured; `t.tx_idx <- 0`; then TX_WRITE. -/
def Obligations.TxAssertRaisesAConfiguredLine : Prop :=
  ∀ s : State,
    exec .txAssert s =
      .next { s with
        txEn := if s.cfg.txenPresent = true then true else s.txEn
        trace := if s.cfg.txenPresent = true then s.trace ++ [.txEn true] else s.trace
        t := { s.t with txIdx := 0 }
        phase := .txWrite }

/-- O22. Phase TX_WRITE (R125): one byte, `adu[t.tx_idx]`, is handed over and the index rises; the eighth leads to
TX_DRAIN. -/
def Obligations.TxWriteHandsOverOneByte : Prop :=
  ∀ (s : State) (b : Byte) (rest : List Bool), s.env.txReady = true :: rest → s.t.txIdx.toNat < 10 →
    aduRead s.adu s.t.txIdx.toNat = some b →
    exec .txWrite s =
      .next { s with
        t := { s.t with txIdx := BitVec.ofNat 4 (s.t.txIdx.toNat + 1) }
        env := { s.env with txReady := rest }
        trace := s.trace ++ [.tx b]
        phase := if s.t.txIdx.toNat = 7 then .txDrain else .txWrite }

/-- O23. Phase TX_DRAIN (R126): `done` and `expired` lead to the same state but for what an observer saw; `t.status` is not
written. -/
def Obligations.TxDrainGoesOnEitherWay : Prop :=
  ∀ (s : State) (a : DrainAnswer) (rest : List DrainAnswer), s.env.drain = a :: rest →
    exec .txDrain s =
      .next { s with env := { s.env with drain := rest }, trace := s.trace ++ [.drain a], phase := .txRelease }

/-- O24. Phase TX_RELEASE (R127): the line drops only where one is configured; then RX_ARM. -/
def Obligations.TxReleaseDropsAConfiguredLine : Prop :=
  ∀ s : State,
    exec .txRelease s =
      .next { s with
        txEn := if s.cfg.txenPresent = true then false else s.txEn
        trace := if s.cfg.txenPresent = true then s.trace ++ [.txEn false] else s.trace
        phase := .rxArm }

/-! ### The receive parser -/

/-- O25. Phase RX_ARM (R141): the start sample, cursor 0, five bytes to come; then RX_POLL. -/
def Obligations.RxArmStartsTheDeadline : Prop :=
  ∀ (s : State) (t0 : Word) (rest : List Word), s.env.now = t0 :: rest →
    exec .rxArm s =
      .next { s with
        t := { s.t with startMs := t0, cursor := 0, bytesRemaining := 5 }
        env := { s.env with now := rest }
        trace := s.trace ++ [.now t0]
        phase := .rxPoll }

/-- O26. Phase RX_POLL (R142, R190): `none` changes no register; a byte is stored at the cursor and counted; an eleventh
byte goes to FAULT with nothing stored. That a cursor above 10, which no run reaches, stops by name is the model's choice
(log entry 20). -/
def Obligations.RxPollStoresAtMostOneByte : Prop :=
  ∀ (s : State) (rest : List PollAnswer),
    (s.env.rx = none :: rest →
      exec .rxPoll s =
        .next { s with env := { s.env with rx := rest }, trace := s.trace ++ [.rx none], phase := .rxHeader }) ∧
    (∀ b, s.env.rx = some b :: rest →
      (s.t.cursor.toNat < 10 →
        ∃ t, exec .rxPoll s = .next t ∧
          aduRead t.adu s.t.cursor.toNat = some b ∧
          (∀ k, k ≠ s.t.cursor.toNat → aduRead t.adu k = aduRead s.adu k) ∧
          (AduWf s.adu → AduWf t.adu) ∧
          t.t.cursor.toNat = s.t.cursor.toNat + 1 ∧
          (0 < s.t.bytesRemaining.toNat → t.t.bytesRemaining.toNat = s.t.bytesRemaining.toNat - 1) ∧
          t = { s with
            adu := t.adu
            t := { s.t with cursor := t.t.cursor, bytesRemaining := t.t.bytesRemaining }
            env := { s.env with rx := rest }, trace := s.trace ++ [.rx (some b)], phase := .rxHeader }) ∧
      (s.t.cursor.toNat = 10 →
        exec .rxPoll s =
          .next { s with
            env := { s.env with rx := rest }, trace := s.trace ++ [.rx (some b)], phase := .fault, fault := true }) ∧
      (10 < s.t.cursor.toNat → exec .rxPoll s = .fault (.noSuchByte s.t.cursor.toNat)))

/-- O27. Phase RX_HEADER (R143): with five bytes in, exception over function over address over the status as it was, and
the reload with the declared count; with any other number of bytes only the phase moves. -/
def Obligations.RxHeaderLastCheckWins : Prop :=
  ∀ s : State,
    (∀ b0 b1 b2, s.t.cursor.toNat = 5 → aduRead s.adu 0 = some b0 → aduRead s.adu 1 = some b1 →
      aduRead s.adu 2 = some b2 →
      ∃ t, exec .rxHeader s = .next t ∧
        t.t.status =
          (if b1.getLsbD 7 = true then .modbusException
            else if b1 &&& 0x7F ≠ s.t.functionCode then .incorrectFunction
            else if b0 ≠ s.t.slaveId then .incorrectSlaveId
            else s.t.status) ∧
        t.t.bytesRemaining.toNat = b2.toNat % 128 ∧
        t = { s with
          t := { s.t with status := t.t.status, bytesRemaining := t.t.bytesRemaining }, phase := .rxDeadline }) ∧
    (s.t.cursor.toNat ≠ 5 → exec .rxHeader s = .next { s with phase := .rxDeadline })

/-- O28. Phase RX_DEADLINE and the loop test (R144, R145): the elapsed time modulo `2^32`, strictly greater than the
timeout, over any status; then RX_POLL while bytes remain and the status is OK, else CRC_CHECK. -/
def Obligations.RxDeadlineThenLoopTest : Prop :=
  ∀ (s : State) (now : Word) (rest : List Word), s.env.now = now :: rest →
    ∃ t, exec .rxDeadline s = .next t ∧
      t.t.status =
        (if s.cfg.timeoutMs.toNat < (now.toNat + (2 ^ 32 - s.t.startMs.toNat)) % 2 ^ 32 then .timeout
          else s.t.status) ∧
      t.phase = (if 0 < s.t.bytesRemaining.toNat ∧ t.t.status = .ok then .rxPoll else .crcCheck) ∧
      t = { s with
        t := { s.t with status := t.t.status }
        env := { s.env with now := rest }, trace := s.trace ++ [.now now], phase := t.phase }

/-- O29. Phase CRC_CHECK (R146): over OK and with at least five bytes the last two bytes, low first, are compared with the
CRC of those before them; otherwise the check is skipped. The value left in `t.crc` is the model's choice (log entry 12). -/
def Obligations.CrcCheckComparesTheLastTwoBytes : Prop :=
  ∀ s : State,
    (∀ (body : List Byte) (lo hi : Byte), s.t.status = .ok → s.t.cursor.toNat = body.length + 2 →
      5 ≤ s.t.cursor.toNat → s.t.cursor.toNat ≤ 10 →
      (∀ k < s.t.cursor.toNat, aduRead s.adu k = (body ++ [lo, hi])[k]?) →
      exec .crcCheck s =
        .next { s with
          t := { s.t with
            crc := crc16 body
            status := if lo = (crc16 body).extractLsb' 0 8 ∧ hi = (crc16 body).extractLsb' 8 8 then .ok else .crcError }
          phase := .decode }) ∧
    (s.t.status ≠ .ok ∨ s.t.cursor.toNat < 5 → exec .crcCheck s = .next { s with phase := .decode })

/-- O30. Phase DECODE where the value is defined (R163): the sentinel for every failure, the decoded register or pair for
an OK transaction with a payload long enough; the status is not written. -/
def Obligations.DecodePhaseGivesTheResult : Prop :=
  ∀ s : State,
    (s.t.status ≠ .ok →
      exec .decode s = .next { s with t := { s.t with result := 0xFFFFFFFF }, phase := .respond }) ∧
    (∀ b2 d0 d1, s.t.status = .ok → s.t.regCount = 1 → aduRead s.adu 2 = some b2 → 2 ≤ b2.toNat % 128 →
      aduRead s.adu 3 = some d0 → aduRead s.adu 4 = some d1 →
      exec .decode s =
        .next { s with
          t := { s.t with result := if s.cfg.bigEndian = true then 0#16 ++ d0 ++ d1 else 0#16 ++ d1 ++ d0 }
          phase := .respond }) ∧
    (∀ b2 d0 d1 d2 d3, s.t.status = .ok → s.t.regCount = 2 → aduRead s.adu 2 = some b2 → 4 ≤ b2.toNat % 128 →
      aduRead s.adu 3 = some d0 → aduRead s.adu 4 = some d1 → aduRead s.adu 5 = some d2 → aduRead s.adu 6 = some d3 →
      exec .decode s =
        .next { s with
          t := { s.t with
            result :=
              match s.cfg.bigEndian, s.cfg.regSwap with
              | true, false => d0 ++ d1 ++ d2 ++ d3
              | true, true => d2 ++ d3 ++ d0 ++ d1
              | false, false => d1 ++ d0 ++ d3 ++ d2
              | false, true => d3 ++ d2 ++ d1 ++ d0 }
          phase := .respond })

/-- O31. Phase DECODE where the value is any (R164, R165): a count outside 1 and 2, or a payload too short. The transaction
goes on to RESPOND with status OK; only `t.result` (any value) and the model's counter of draws change. The free value
itself is the model's device (log entry 7). -/
def Obligations.DecodeOutsideTheContractKeepsOk : Prop :=
  ∀ s : State, s.t.status = .ok →
    ((s.t.regCount ≠ 1 ∧ s.t.regCount ≠ 2) ∨
      ∃ b2, aduRead s.adu 2 = some b2 ∧
        ((s.t.regCount = 1 ∧ b2.toNat % 128 < 2) ∨ (s.t.regCount = 2 ∧ b2.toNat % 128 < 4))) →
    ∃ t v n, exec .decode s = .next t ∧ t.t.status = .ok ∧
      t = { s with t := { s.t with result := v }, draws := n, phase := .respond }

/-! ### Frames, held phases, stops -/

/-- O32. A request frame crosses to the slave when the block has handed over its bytes and they are the next to cross;
otherwise nothing crosses. A response frame is bytes of the receive stream behind those that wait there. No register, no
byte of the buffer and no event of the trace changes (R84, R86, R87, R72, R73). That a frame of the table is performed as
its crossing of the link is the model's choice (log entry 15). -/
def Obligations.FramesCrossTheLink : Prop :=
  (∀ (s : State) (slave : Byte) (addr : Half) (count lo hi : Byte),
    let frame : List Byte := [slave, 0x03, (addr >>> 8).setWidth 8, addr.setWidth 8, 0x00, count, lo, hi]
    (frame <+: outstanding s →
      exec (.reqRdhr slave addr count lo hi) s =
        .next { s with line := s.line ++ [frame], env := { s.env with wire := s.env.wire.tail } }) ∧
    (¬ frame <+: outstanding s →
      exec (.reqRdhr slave addr count lo hi) s = .next { s with env := { s.env with wire := s.env.wire.tail } })) ∧
  (∀ (s : State) (r c : Byte) (data : List Byte) (lo hi : Byte),
    exec (.rspNormal r c data lo hi) s =
      .next { s with
        env := { s.env with
          wire := s.env.wire.tail
          rx := s.env.rx ++ ([r, 0x03, c] ++ data ++ [lo, hi]).map some } }) ∧
  (∀ (s : State) (r : Byte) (f : BitVec 7) (e lo hi : Byte),
    exec (.rspException r f e lo hi) s =
      .next { s with
        env := { s.env with
          wire := s.env.wire.tail
          rx := s.env.rx ++ [some r, some (0x80 ||| f.setWidth 8), some e, some lo, some hi] } })

/-- O33. A phase whose primitive has not returned is held (60_exceptions R193, 93 U9): with no answer there, nothing
changes; with a sample 0 of `tx_ready` or `rsp_ready`, no register, no output and no event changes. That such a sample is
used up, one per step, is the model's choice (log entry 3). -/
def Obligations.HeldPhasesChangeNothing : Prop :=
  ∀ s : State,
    (s.phase = .setupCfg → s.env.configure = [] → exec .setupCfg s = .next s) ∧
    (s.phase = .txWrite → s.env.txReady = [] → exec .txWrite s = .next s) ∧
    (∀ rest, s.phase = .txWrite → s.env.txReady = false :: rest →
      exec .txWrite s = .next { s with env := { s.env with txReady := rest } }) ∧
    (s.phase = .txDrain → s.env.drain = [] → exec .txDrain s = .next s) ∧
    (s.phase = .rxArm → s.env.now = [] → exec .rxArm s = .next s) ∧
    (s.phase = .rxPoll → s.env.rx = [] → exec .rxPoll s = .next s) ∧
    (s.phase = .rxDeadline → s.env.now = [] → exec .rxDeadline s = .next s) ∧
    (s.phase = .respond → s.env.rspReady = [] → exec .respond s = .next s) ∧
    ∀ rest, s.phase = .respond → s.env.rspReady = false :: rest →
      exec .respond s = .next { s with env := { s.env with rspReady := rest } }

/-- O34. Every phase that reads the buffer stops by name at the first byte it would read that does not exist (R66) or that
nothing has written (R43): TX_WRITE at its index, RX_HEADER at bytes 0 to 2, CRC_CHECK at the bytes below the cursor,
DECODE at byte 2 and at the data bytes its count and the declared payload ask for. That it stops is the model's choice
(log entries 6, 20); O40 says that no state of the invariant gets there. -/
def Obligations.ReadsOfMissingBytesStop : Prop :=
  ∀ s : State,
    (∀ rest, s.env.txReady = true :: rest →
      (10 ≤ s.t.txIdx.toNat → exec .txWrite s = .fault (.noSuchByte s.t.txIdx.toNat)) ∧
      (s.t.txIdx.toNat < 10 → aduRead s.adu s.t.txIdx.toNat = none →
        exec .txWrite s = .fault (.unwrittenByte s.t.txIdx.toNat))) ∧
    (∀ k < 3, s.t.cursor.toNat = 5 → (∀ j < k, (aduRead s.adu j).isSome = true) → aduRead s.adu k = none →
      exec .rxHeader s = .fault (.unwrittenByte k)) ∧
    (s.t.status = .ok → 5 ≤ s.t.cursor.toNat →
      (∀ k < s.t.cursor.toNat, k < 10 → (∀ j < k, (aduRead s.adu j).isSome = true) → aduRead s.adu k = none →
        exec .crcCheck s = .fault (.unwrittenByte k)) ∧
      (10 < s.t.cursor.toNat → (∀ j < 10, (aduRead s.adu j).isSome = true) →
        exec .crcCheck s = .fault (.noSuchByte 10))) ∧
    (s.t.status = .ok → s.t.regCount = 1 ∨ s.t.regCount = 2 →
      (aduRead s.adu 2 = none → exec .decode s = .fault (.unwrittenByte 2)) ∧
      ∀ b2 k, aduRead s.adu 2 = some b2 → 2 * s.t.regCount.toNat ≤ b2.toNat % 128 → 3 ≤ k →
        k < 3 + 2 * s.t.regCount.toNat → (∀ j, 3 ≤ j → j < k → (aduRead s.adu j).isSome = true) →
        aduRead s.adu k = none → exec .decode s = .fault (.unwrittenByte k))

/-! ### The step, reset -/

/-- O35. A step runs the decoded instruction: when what the next step fetches decodes to `i`, the step is `exec i`; what is
fetched is a frame on the wire, else in IDLE the offered command, else the phase. That a frame on the wire goes before the
command and the phase is the model's choice (log entry 15). -/
def Obligations.StepRunsTheDecodedInstruction : Prop :=
  ∀ (s : State) (i : Instr), s.env.rst = [] → decode (fetch s) = .ok i →
    step s = exec i s ∧
      (∀ f rest, s.env.wire = f :: rest → fetch s = .adu f.dir f.bytes) ∧
      (∀ c rest, s.env.wire = [] → s.phase = .idle → s.env.cmds = c :: rest → i = decodeCmd c) ∧
      (s.env.wire = [] → s.phase ≠ .idle ∨ s.env.cmds = [] → i = phaseInstr s.phase)

/-- O36. Reset (R200): whatever the phase, the step with `rst` sampled 1 gives IDLE, unconfigured, no SETUP seen, `tx_en`
and `fault` 0 and no handshake output but `cmd_ready`. That `rst` is sampled once per step, that a sample 0 is used up and
the phase performed, and that all other inputs stay where they are (R201 says it of the bytes in the transport only) is the
model's choice (log entry 4). -/
def Obligations.ResetActsInEveryPhase : Prop :=
  ∀ (s : State) (rest : List Bool),
    (s.env.rst = true :: rest →
      ∃ t, step s = .next t ∧ t.phase = .idle ∧ t.cfg.configured = false ∧ t.cfg.setupSeen = false ∧
        t.txEn = false ∧ t.fault = false ∧
        outputs t =
          { cmdReady := true, rspValid := false, tcfgValid := false, txValid := false, rxReady := false, txEn := false,
            fault := false } ∧
        t.env = { s.env with rst := rest }) ∧
    (s.env.rst = false :: rest →
      step s = perform { s with env := { s.env with rst := rest } })

/-- O37. The reset values the spec gives (R41): the sequencer, the two configuration flags and the outputs. -/
def Obligations.ResetStateHasTheGivenValues : Prop :=
  State.reset.phase = .idle ∧ State.reset.cfg.configured = false ∧ State.reset.cfg.setupSeen = false ∧
    State.reset.txEn = false ∧ State.reset.fault = false ∧
    outputs State.reset =
      { cmdReady := true, rspValid := false, tcfgValid := false, txValid := false, rxReady := false, txEn := false,
        fault := false }

/-! ### Invariants and whole-machine rules -/

/-- O38. The invariant holds after reset. -/
def Obligations.InvHoldsAtReset : Prop := Inv State.reset

/-- O39. Every step keeps the invariant, whatever the environment answers and wherever reset falls: the buffer's canonical
form, `fault` exactly in FAULT (R42), `tx_en` exactly while transmitting on a half-duplex link (R33, R130), the counters
of the receive loop (R27, R28, R150), the bytes every phase relies on (R71), the sentinel of every failure (R26). -/
def Obligations.StepKeepsTheInvariant : Prop :=
  ∀ s t : State, Inv s → step s = .next t → Inv t

/-- O40. In a state of the invariant no step faults, and the only refusal is that of a second SETUP (R66, R71, R193). -/
def Obligations.InvExcludesFaults : Prop :=
  ∀ s : State, Inv s →
    (∀ f, step s ≠ .fault f) ∧
      ∀ r, step s = .refused r →
        r = .secondSetup ∧ s.phase = .idle ∧ s.cfg.setupSeen = true ∧ ∃ c rest, s.env.cmds = c :: rest ∧ c.op = 0

/-- O41. The successor table (R131) with its conditions: every step of the sequencer, with `rst` sampled 0 or not sampled,
moves `phase` as the table says and in no other way, and reset forces IDLE from any phase. A step in which a frame crosses
the link is O57. -/
def Obligations.StepFollowsTheSuccessorTable : Prop :=
  ∀ s t : State, step s = .next t →
    ((∀ rest, s.env.rst ≠ true :: rest) → s.env.wire = [] → SuccessorOk s t) ∧
      ∀ rest, s.env.rst = true :: rest → t.phase = .idle

/-- O42. Who writes the configuration (R21 to R23, R216): the acceptance of SETUP, and SETUP_CFG for `cfg.configured`
alone. -/
def Obligations.OnlySetupWritesTheConfiguration : Prop :=
  ∀ (i : Instr) (s t : State), exec i s = .next t →
    ((i = .idle ∨ ∃ a b c d e, i = .setup a b c d e) ∨
      (i = .setupCfg ∧ t.cfg = { s.cfg with configured := t.cfg.configured }) ∨ t.cfg = s.cfg) ∧
    (i = .idle → ∀ c rest, s.env.cmds = c :: rest → c.op = 1 → t.cfg = s.cfg) ∧
    (s.cfg.setupSeen = true → t.cfg = { s.cfg with configured := t.cfg.configured })

/-- O43. Who writes the two outputs that are state (R33, R42): `tx_en` only TX_ASSERT (to 1) and TX_RELEASE (to 0), and only
with a configured line; `fault` only RX_POLL and FAULT, to 1. -/
def Obligations.WritersOfTheOutputs : Prop :=
  ∀ (i : Instr) (s t : State), exec i s = .next t →
    ((i = .txAssert ∧ s.cfg.txenPresent = true ∧ t.txEn = true) ∨
      (i = .txRelease ∧ s.cfg.txenPresent = true ∧ t.txEn = false) ∨ t.txEn = s.txEn) ∧
    (((i = .rxPoll ∨ i = .fault) ∧ t.fault = true ∧ t.phase = .fault) ∨ t.fault = s.fault)

/-- O44. Who writes the buffer (R64): BUILD `adu[0..7]`, RX_POLL `adu[t.cursor]`, nothing else any byte. -/
def Obligations.WritersOfTheBuffer : Prop :=
  ∀ (i : Instr) (s t : State), exec i s = .next t →
    (i ≠ .build → i ≠ .rxPoll → t.adu = s.adu) ∧
    (i = .build → ∀ k, 8 ≤ k → aduRead t.adu k = aduRead s.adu k) ∧
    (i = .rxPoll → ∀ k, k ≠ s.t.cursor.toNat → aduRead t.adu k = aduRead s.adu k)

/-- O45. Who writes each transaction register (R24 to R30, R32). -/
def Obligations.WritersOfTheTransactionRegisters : Prop :=
  ∀ (i : Instr) (s t : State), exec i s = .next t →
    ((i = .idle ∨ ∃ a b c, i = .rdhr a b c) ∨
      (t.t.slaveId = s.t.slaveId ∧ t.t.functionCode = s.t.functionCode ∧ t.t.regAddr = s.t.regAddr ∧
        t.t.regCount = s.t.regCount)) ∧
    ((i = .idle ∨ ∃ a b c, i = .rdhr a b c) ∨ i = .rxHeader ∨ i = .rxDeadline ∨ i = .crcCheck ∨
      t.t.status = s.t.status) ∧
    ((i = .idle ∨ ∃ a b c, i = .rdhr a b c) ∨ i = .decode ∨ t.t.result = s.t.result) ∧
    (i = .rxArm ∨ i = .rxPoll ∨ i = .rxHeader ∨ t.t.bytesRemaining = s.t.bytesRemaining) ∧
    (i = .rxArm ∨ i = .rxPoll ∨ t.t.cursor = s.t.cursor) ∧
    (i = .rxArm ∨ t.t.startMs = s.t.startMs) ∧
    (i = .build ∨ i = .crcCheck ∨ t.t.crc = s.t.crc) ∧
    (i = .txAssert ∨ i = .txWrite ∨ t.t.txIdx = s.t.txIdx)

/-- O46. The response of an RDHR is trustworthy (R26, R179): in a state of the invariant RESPOND delivers `(t.status,
t.result)`, and a status other than OK comes with the sentinel; NotInitialized comes exactly from an unconfigured block
(R171). -/
def Obligations.FailedResponsesCarryTheSentinel : Prop :=
  ∀ (s : State) (rest : List Bool), Inv s → s.phase = .respond → s.rspIsSetup = false → s.env.rst = [] → s.env.wire = [] →
    s.env.rspReady = true :: rest →
    ∃ t, step s = .next t ∧ t.phase = .idle ∧
      t.trace = s.trace ++ [.respond (.rdhr s.t.status s.t.result)] ∧
      (s.t.status ≠ .ok → s.t.result = 0xFFFFFFFF) ∧
      (s.t.status = .notInitialized ↔ s.cfg.configured = false)

/-- O47. An RDHR on an unconfigured block (R122, R171): two steps, and the whole trace is one response NotInitialized with
the sentinel; no byte of the buffer, no output and no other input is touched. -/
def Obligations.UnconfiguredRdhrDoesNoIo : Prop :=
  ∀ (s : State) (c : CmdPort) (rest : List CmdPort) (ready : List Bool), s.phase = .idle → s.cfg.configured = false →
    s.env.rst = [] → s.env.wire = [] → s.env.cmds = c :: rest → c.op = 1 → s.env.rspReady = true :: ready →
    ∃ t, core.run 2 s = .next t ∧ t.phase = .idle ∧
      t.trace = s.trace ++ [.respond (.rdhr .notInitialized 0xFFFFFFFF)] ∧
      t.adu = s.adu ∧ t.txEn = s.txEn ∧ t.cfg = s.cfg ∧
      t.env = { s.env with cmds := rest, rspReady := ready }

/-! ### The transaction as a whole -/

/-- O48. The transmit half of a transaction (R134, R68, R72): from an accepted RDHR on a configured block, fourteen steps
lead to the receive loop, with exactly the events of R134 in their order, the eight bytes of the frame among them, and
the registers as RX_ARM leaves them. -/
def Obligations.TransmitHalfShowsTheTrace : Prop :=
  ∀ (s : State) (c : CmdPort) (cmds : List CmdPort) (ready : List Bool) (a : DrainAnswer) (drain : List DrainAnswer) (t0 : Word)
    (now : List Word),
    s.phase = .idle → s.cfg.configured = true → s.env.rst = [] → s.env.wire = [] → s.env.cmds = c :: cmds → c.op = 1 →
    s.env.txReady = List.replicate 8 true ++ ready → s.env.drain = a :: drain → s.env.now = t0 :: now →
    ∃ t, core.run 14 s = .next t ∧ t.phase = .rxPoll ∧
      t.trace = s.trace ++
        ((if s.cfg.txenPresent = true then [.txEn true] else []) ++
          (buildReadRequest c.slaveId c.regAddr c.regCount).map .tx ++ [.drain a] ++
          (if s.cfg.txenPresent = true then [.txEn false] else []) ++ [.now t0]) ∧
      t.txEn = (if s.cfg.txenPresent = true then false else s.txEn) ∧
      t.t.slaveId = c.slaveId ∧ t.t.regAddr = c.regAddr ∧ t.t.regCount = c.regCount ∧ t.t.functionCode = 0x03 ∧
      t.t.startMs = t0 ∧ t.t.status = .ok ∧ t.t.result = 0xFFFFFFFF ∧ Abstracts Loop.start t ∧ t.cfg = s.cfg ∧
      t.env = { s.env with cmds := cmds, txReady := ready, drain := drain, now := now }

/-- O49. One iteration of the receive loop is one `step` of R152: the three phases RX_POLL, RX_HEADER, RX_DEADLINE move the
machine as the function moves `(buf, rem, st)`, and an overrun is FAULT. -/
def Obligations.IterationMatchesTheBigStep : Prop :=
  ∀ (s : State) (l : Loop) (r : PollAnswer) (n : Word) (rx : List PollAnswer) (now : List Word),
    LoopReady s (r :: rx) (n :: now) → Abstracts l s →
    match loopStep s.t.slaveId s.cfg.timeoutMs s.t.startMs l (r, n) with
    | none => ∃ t, core.run 1 s = .next t ∧ t.phase = .fault ∧ t.fault = true ∧ t.adu = s.adu
    | some l' =>
      ∃ t, core.run 3 s = .next t ∧ Abstracts l' t ∧
        t.phase = (if l'.rem ≠ 0 ∧ l'.st = .ok then .rxPoll else .crcCheck) ∧
        t.env = { s.env with rx := rx, now := now } ∧ t.trace = s.trace ++ [.rx r, .now n] ∧ t.cfg = s.cfg ∧
        t.txEn = s.txEn ∧ t.t.slaveId = s.t.slaveId ∧ t.t.functionCode = s.t.functionCode ∧ t.t.startMs = s.t.startMs

/-- O50. The receive loop with CRC_CHECK is the function of R152: started with an empty buffer it ends after the same
number of iterations with the same bytes and, after CRC_CHECK, `st_final`; it overruns where the function does; and while
the function goes on, so does the machine. -/
def Obligations.LoopMatchesTheBigStep : Prop :=
  ∀ (s : State) (answers : List (PollAnswer × Word)) (rx : List PollAnswer) (now : List Word),
    LoopReady s (answers.map Prod.fst ++ rx) (answers.map Prod.snd ++ now) → Abstracts Loop.start s →
    match loopRun s.t.slaveId s.cfg.timeoutMs s.t.startMs answers Loop.start with
    | .ended l k =>
      ∃ t, core.run (3 * k + 1) s = .next t ∧ t.phase = .decode ∧ t.t.status = loopFinal l ∧
        t.t.cursor.toNat = l.buf.length ∧ (∀ i < l.buf.length, aduRead t.adu i = l.buf[i]?) ∧
        t.env.rx = (answers.drop k).map Prod.fst ++ rx ∧ t.env.now = (answers.drop k).map Prod.snd ++ now
    | .overrun k =>
      1 ≤ k ∧ ∃ t, core.run (3 * (k - 1) + 1) s = .next t ∧ t.phase = .fault ∧ t.fault = true ∧ t.t.cursor.toNat = 10
    | .running l => ∃ t, core.run (3 * answers.length) s = .next t ∧ t.phase = .rxPoll ∧ Abstracts l t

/-- O51. The status at the end of the iteration that stores the fifth byte (R147): deadline over exception over function
over address. -/
def Obligations.FifthByteStatusTable : Prop :=
  ∀ (s : State) (b0 b1 b2 b3 b4 : Byte) (n : Word) (rx : List PollAnswer) (now : List Word),
    LoopReady s (some b4 :: rx) (n :: now) →
    Abstracts { buf := [b0, b1, b2, b3], rem := 1, st := .ok } s →
    ∃ t, core.run 3 s = .next t ∧
      t.t.status =
        (if s.cfg.timeoutMs < n - s.t.startMs then .timeout
          else if b1 &&& 0x80 ≠ 0 then .modbusException
          else if b1 &&& 0x7F ≠ 0x03 then .incorrectFunction
          else if b0 ≠ s.t.slaveId then .incorrectSlaveId
          else .ok)

/-- O52. The length law (R150), on the loop as a function: OK with `5 + N` bytes and `N <= 5`; a header failure with five;
a time-out with at most ten, and at most `5 + N` once `N` is known; no other status. -/
def Obligations.LoopEndsWithTheLengthLaw : Prop :=
  ∀ (slave : Byte) (timeout t0 : Word) (answers : List (PollAnswer × Word)) (l : Loop) (k : Nat),
    loopRun slave timeout t0 answers Loop.start = .ended l k →
    (l.st = .ok ∧ l.buf.length = 5 + (l.buf.getD 2 0).toNat % 128 ∧ (l.buf.getD 2 0).toNat % 128 ≤ 5) ∨
      ((l.st = .incorrectSlaveId ∨ l.st = .incorrectFunction ∨ l.st = .modbusException) ∧ l.buf.length = 5) ∨
      (l.st = .timeout ∧ l.buf.length ≤ 10 ∧
        (3 ≤ l.buf.length → l.buf.length ≤ 5 + (l.buf.getD 2 0).toNat % 128))

/-- O53. Termination and the time bound (R148) under EA1, EA2 and EA9 (R189), for every `POLL_MS` the parameter table
admits (R4: at least 1): with true times, polls that wait at least `POLL_MS` and iterations of at most `POLL_MS + d`, and
the timeout clear of the wrap, the loop is over within `timeout / POLL_MS + 11` iterations, and a Timeout comes later than
the timeout by at most `POLL_MS + d`. -/
def Obligations.LoopEndsWithinTheBound : Prop :=
  ∀ (slave : Byte) (timeout : Word) (start pollMs d : Nat) (answers : List (PollAnswer × Nat)), 1 ≤ pollMs →
    TimedAnswers pollMs d start answers → timeout.toNat + pollMs + d < 2 ^ 32 →
    (timeout.toNat / pollMs + 11 ≤ answers.length →
      ∀ l, loopRun slave timeout (BitVec.ofNat 32 start) (sampled answers) Loop.start ≠ .running l) ∧
    ∀ l k, loopRun slave timeout (BitVec.ofNat 32 start) (sampled answers) Loop.start = .ended l k →
      k ≤ timeout.toNat / pollMs + 11 ∧
        (l.st = .timeout →
          ∃ a, answers[k - 1]? = some a ∧ start + timeout.toNat < a.2 ∧
            a.2 ≤ start + timeout.toNat + pollMs + d)

/-- O54. Nothing of an earlier transaction is read (R35, R132, R180): from IDLE, two states that differ only in the
transaction registers and the buffer run alike for ever: the same phases, events, outputs, configuration and stops. The
results that R164 and R165 leave at any value are equal too only by the model's choice: a free value depends on the counter
`draws` alone, which both runs share (log entry 7). -/
def Obligations.NoTransactionReadsAnEarlierOne : Prop :=
  ∀ (s : State) (regs : TxnRegs) (adu : List Host.Cell) (k : Nat), s.phase = .idle →
    match (core.run k s : Host.Outcome State Fault Refusal),
      (core.run k { s with t := regs, adu := adu } : Host.Outcome State Fault Refusal) with
    | .next a, .next b =>
      a.phase = b.phase ∧ a.trace = b.trace ∧ a.cfg = b.cfg ∧ a.env = b.env ∧ a.txEn = b.txEn ∧ a.fault = b.fault
    | .fault f, .fault g => f = g
    | .refused f, .refused g => f = g
    | _, _ => False

/-! ### The timers at the ports -/

/-- O55. The poll timer (R184), for every `POLL_MS`: after samples without a byte inside `POLL_MS`, a presented byte is the
answer, also at the instant of expiry; without one the answer is `none` once `POLL_MS` have passed; until then there is no
answer. -/
def Obligations.PollTimerAtThePorts : Prop :=
  ∀ (pollMs : Nat) (start : Word) (waiting : List RxSample) (x : RxSample) (rest : List RxSample),
    (∀ y ∈ waiting, y.valid = false ∧ (y.ms - start).toNat < pollMs) →
    (x.valid = true → pollAtPorts pollMs start (waiting ++ x :: rest) = some (some x.data)) ∧
      (x.valid = false → pollMs ≤ (x.ms - start).toNat →
        pollAtPorts pollMs start (waiting ++ x :: rest) = some none) ∧
      pollAtPorts pollMs start waiting = none

/-- O56. The drain timer (R185), for every `TX_DRAIN_MAX_MS`: `tx_idle` seen means done, also at the instant of expiry;
without it the answer is `expired` once `TX_DRAIN_MAX_MS` have passed; until then there is no answer. -/
def Obligations.DrainTimerAtThePorts : Prop :=
  ∀ (maxMs : Nat) (start : Word) (waiting : List DrainSample) (x : DrainSample) (rest : List DrainSample),
    (∀ y ∈ waiting, y.idle = false ∧ (y.ms - start).toNat < maxMs) →
    (x.idle = true → drainAtPorts maxMs start (waiting ++ x :: rest) = some .done) ∧
      (x.idle = false → maxMs ≤ (x.ms - start).toNat →
        drainAtPorts maxMs start (waiting ++ x :: rest) = some .expired) ∧
      drainAtPorts maxMs start waiting = none

/-! ### Frames in a step -/

/-- O57. A step with a frame on the wire is the crossing of that frame and nothing else: to the slave, where its bytes are
the next of those the block handed over (else nothing crosses); from the slave, behind the bytes that wait in the receive
stream (20_memory R72, R73; 60_exceptions R187). That frames cross in steps of their own is the model's choice (log entry
15). -/
def Obligations.AFrameCrossesInOneStep : Prop :=
  ∀ (s : State) (f : WireFrame) (rest : List WireFrame), s.env.rst = [] → s.env.wire = f :: rest →
    (f.dir = .toSlave → f.bytes <+: outstanding s →
      step s = .next { s with env := { s.env with wire := rest }, line := s.line ++ [f.bytes] }) ∧
    (f.dir = .toSlave → ¬ f.bytes <+: outstanding s → step s = .next { s with env := { s.env with wire := rest } }) ∧
    (f.dir = .fromSlave →
      step s = .next { s with env := { s.env with wire := rest, rx := s.env.rx ++ f.bytes.map some } })

/-! ### What the block sends, and when ready counts -/

/-- O58. The block hands bytes to the transport in TX_WRITE and at no other time, one per step, the byte at `t.tx_idx`
(20_memory R72; 00_scope R7: no other output). -/
def Obligations.OnlyTxWriteSends : Prop :=
  ∀ s t : State, step s = .next t →
    txBytes t.trace = txBytes s.trace ∨
      (s.phase = .txWrite ∧ s.env.wire = [] ∧
        ∃ b, aduRead s.adu s.t.txIdx.toNat = some b ∧ txBytes t.trace = txBytes s.trace ++ [b])

/-- O59. The response handshake (10_state R40): while `rsp_ready` is 0 the block stays in RESPOND with the response stable,
and the first cycle with `rsp_ready` 1 takes it and leads to IDLE. -/
def Obligations.ResponseIsTakenInTheFirstReadyCycle : Prop :=
  ∀ (s : State) (n : Nat) (rest : List Bool), s.phase = .respond → s.env.rst = [] → s.env.wire = [] →
    s.env.rspReady = List.replicate n false ++ true :: rest →
    (∀ k ≤ n, ∃ t, core.run k s = .next t ∧ (outputs t).rspValid = true ∧ responseOf t = responseOf s ∧
      t.trace = s.trace) ∧
    ∃ t, core.run (n + 1) s = .next t ∧ t.phase = .idle ∧ t.trace = s.trace ++ [.respond (responseOf s)] ∧
      t.env.rspReady = rest

/-- O60. A sample of a port counts only in the cycle that asks for it (10_state R38, 60_exceptions R186): `tx_ready` while
`tx_valid` is 1, `rsp_ready` while `rsp_valid` is 1, `ms_now` in RX_ARM and RX_DEADLINE; a sample in any other cycle moves
nothing, and none is kept. So `Now()` returns the value of `ms_now` in its own cycle, whatever was sampled before. -/
def Obligations.SamplesCountOnlyWhereAsked : Prop :=
  ∀ s : State,
    (∀ ready,
      sampleTxReady ready s =
          { s with env := { s.env with txReady := if s.phase = .txWrite then [ready] else [] } } ∧
        sampleRspReady ready s =
          { s with env := { s.env with rspReady := if s.phase = .respond then [ready] else [] } }) ∧
    ∀ ms : Word,
      sampleClock ms s =
          { s with env := { s.env with now := if s.phase = .rxArm ∨ s.phase = .rxDeadline then [ms] else [] } } ∧
        (s.env.rst = [] → s.env.wire = [] →
          (s.phase = .rxArm →
            ∃ t, step (sampleClock ms s) = .next t ∧ t.t.startMs = ms ∧ t.trace = s.trace ++ [.now ms] ∧ t.env.now = []) ∧
          (s.phase = .rxDeadline →
            ∃ t, step (sampleClock ms s) = .next t ∧
              t.t.status = (if s.cfg.timeoutMs < ms - s.t.startMs then .timeout else s.t.status) ∧
              t.trace = s.trace ++ [.now ms] ∧ t.env.now = []))
end

