-- ==== Sys2Proof/Laws/Decode.lean ====
section
/-! SUPPORT. Fields of a command word: a field read back from its bits is the field. -/

namespace Sys2Proof

/-- The bits of a word of `n` bits are `n`. -/
@[simp] theorem length_bitsOf (n w : Nat) : (bitsOf n w).length = n := by simp [bitsOf]

/-- One bit more goes in front. -/
theorem bitsOf_succ (n w : Nat) : bitsOf (n + 1) w = w.testBit n :: bitsOf n w := by simp [bitsOf, List.range_succ]

/-- Reading bits from the left, the bits read so far count for what follows. -/
theorem foldl_bits (bits : List Bool) (a : Nat) :
    bits.foldl (fun a b => 2 * a + b.toNat) a = a * 2 ^ bits.length + natOfBits bits := by
  induction bits generalizing a with
  | nil => simp [natOfBits]
  | cons b rest ih =>
    simp only [natOfBits, List.foldl_cons, List.length_cons]
    rw [ih, ih (2 * 0 + b.toNat)]
    ring

/-- The number of the low `n` bits of a word is the word modulo `2^n`. -/
theorem natOfBits_bitsOf (n w : Nat) : natOfBits (bitsOf n w) = w % 2 ^ n := by
  induction n with
  | zero => simp [bitsOf, natOfBits, Nat.mod_one]
  | succ n ih =>
    rw [bitsOf_succ, natOfBits, List.foldl_cons, foldl_bits, ih, length_bitsOf, Nat.mod_pow_succ,
      Nat.testBit_eq_decide_div_mod_eq]
    rcases Nat.mod_two_eq_zero_or_one (w / 2 ^ n) with h | h <;> simp [h, add_comm]

/-- A field goes through its bits unchanged. -/
@[simp] theorem fieldOf_bitsOf (n : Nat) (v : BitVec n) : fieldOf n (bitsOf n v.toNat) = v := by
  rw [fieldOf, natOfBits_bitsOf]
  apply BitVec.eq_of_toNat_eq
  simp

end Sys2Proof
end

