-- ==== Sys2Proof/Laws/Memory.lean ====
section
/-! SUPPORT. The laws of `aduBuffer`: reading after writing, writes elsewhere, the canonical form, the reads with their
faults. -/

namespace Sys2Proof.Machine

/-- A read after a write: the written byte at its index, the old byte elsewhere. -/
theorem aduRead_aduWrite (m : List Host.Cell) (a : Nat) (b : Byte) (i : Nat) :
    aduRead (aduWrite m a b) i = if i = a then some b else aduRead m i := by
  induction m with
  | nil => simp only [aduWrite, aduRead, eq_comm (a := a)]
  | cons c rest ih =>
    obtain ⟨k, v⟩ := c
    simp only [aduWrite]
    split
    · simp only [aduRead, eq_comm (a := a)]
    · split
      · rename_i hk
        subst hk
        simp only [aduRead, eq_comm (a := k)]
        split <;> rfl
      · rename_i hk
        simp only [aduRead, ih]
        by_cases h : i = a
        · subst h; simp [hk]
        · simp [h]

@[simp] theorem aduRead_aduWrite_same (m : List Host.Cell) (a : Nat) (b : Byte) :
    aduRead (aduWrite m a b) a = some b := by simp [aduRead_aduWrite]

theorem aduRead_aduWrite_ne {i a : Nat} (m : List Host.Cell) (b : Byte) (h : i ≠ a) :
    aduRead (aduWrite m a b) i = aduRead m i := by simp [aduRead_aduWrite, h]

/-- What is listed after a write: what was listed, and the written cell. -/
theorem mem_aduWrite {m : List Host.Cell} {a : Nat} {b : Byte} {c : Host.Cell} (h : c ∈ aduWrite m a b) :
    c = (a, b) ∨ c ∈ m := by
  induction m with
  | nil => simpa [aduWrite] using h
  | cons d rest ih =>
    obtain ⟨k, v⟩ := d
    simp only [aduWrite] at h
    split at h
    · simpa using h
    · split at h
      · rcases List.mem_cons.1 h with h | h <;> simp [h]
      · rcases List.mem_cons.1 h with h | h
        · simp [h]
        · rcases ih h with h | h <;> simp [h]

/-- The buffer after reset has the canonical form. -/
theorem aduWf_reset : AduWf State.reset.adu := by decide

/-- A write inside the buffer keeps the canonical form. -/
theorem aduWf_aduWrite {m : List Host.Cell} {a : Nat} (b : Byte) (hm : AduWf m) (ha : a < aduCap) :
    AduWf (aduWrite m a b) := by
  refine ⟨?_, fun c hc => ?_⟩
  · obtain ⟨hs, -⟩ := hm
    induction m with
    | nil => simp [aduWrite]
    | cons d rest ih =>
      obtain ⟨k, v⟩ := d
      obtain ⟨hk, hr⟩ := List.pairwise_cons.1 hs
      simp only [aduWrite]
      split
      · rename_i hak
        refine List.pairwise_cons.2 ⟨fun c hc => ?_, hs⟩
        rcases List.mem_cons.1 hc with rfl | hc
        · exact hak
        · exact hak.trans (hk c hc)
      · split
        · rename_i hka
          exact List.pairwise_cons.2 ⟨fun c hc => by simpa [← hka] using hk c hc, hr⟩
        · refine List.pairwise_cons.2 ⟨fun c hc => ?_, ih hr⟩
          rcases mem_aduWrite hc with rfl | hc
          · simp only; omega
          · exact hk c hc
  · rcases mem_aduWrite hc with rfl | hc
    · exact ha
    · exact hm.2 c hc

/-- A run of writes inside the buffer keeps the canonical form. -/
theorem aduWf_aduWriteList {bytes : List Byte} {m : List Host.Cell} {a : Nat} (hm : AduWf m)
    (ha : a + bytes.length ≤ aduCap) : AduWf (aduWriteList m a bytes) := by
  induction bytes generalizing m a with
  | nil => exact hm
  | cons b rest ih =>
    simp only [List.length_cons] at ha
    exact ih (aduWf_aduWrite b hm (by omega)) (by omega)

/-- A read after a run of writes. -/
theorem aduRead_aduWriteList (bytes : List Byte) (m : List Host.Cell) (a i : Nat) :
    aduRead (aduWriteList m a bytes) i =
      if a ≤ i ∧ i < a + bytes.length then bytes[i - a]? else aduRead m i := by
  induction bytes generalizing m a with
  | nil => simp [aduWriteList]
  | cons b rest ih =>
    simp only [aduWriteList, ih, List.length_cons, aduRead_aduWrite]
    by_cases h1 : i = a
    · subst h1; simp
    · by_cases h2 : a + 1 ≤ i ∧ i < a + 1 + rest.length
      · rw [if_pos h2, if_pos (by omega), show i - a = (i - (a + 1)) + 1 by omega, List.getElem?_cons_succ]
      · rw [if_neg h2, if_neg h1, if_neg (by omega)]

/-- A read inside the buffer of a written byte. -/
theorem aduFetch_ok {m : List Host.Cell} {i : Nat} {b : Byte} (hi : i < aduCap) (h : aduRead m i = some b) :
    aduFetch m i = .ok b := by simp [aduFetch, hi, h]

/-- What a read that answers a byte says. -/
theorem aduFetch_eq_ok {m : List Host.Cell} {i : Nat} {b : Byte} (h : aduFetch m i = .ok b) :
    i < aduCap ∧ aduRead m i = some b := by
  unfold aduFetch at h
  split at h
  · split at h
    · rename_i hi _ b' hr; cases h; exact ⟨hi, hr⟩
    · cases h
  · cases h

/-- A phase that reads one byte and goes on: the byte was there. -/
theorem withAdu_next {s t : State} {i : Nat} {k : Byte → Result} (h : withAdu s i k = .next t) :
    ∃ b, i < aduCap ∧ aduRead s.adu i = some b ∧ k b = .next t := by
  unfold withAdu at h
  split at h
  · rename_i b hb
    obtain ⟨h1, h2⟩ := aduFetch_eq_ok hb
    exact ⟨b, h1, h2, h⟩
  · cases h

/-- A phase that reads a byte that is there. -/
theorem withAdu_eq {s : State} {i : Nat} {b : Byte} (k : Byte → Result) (hi : i < aduCap)
    (h : aduRead s.adu i = some b) : withAdu s i k = k b := by simp [withAdu, aduFetch_ok hi h]

/-- The bytes read as a prefix of the buffer. -/
theorem aduPrefix_eq_ok {m : List Host.Cell} {n : Nat} {bytes : List Byte} (h : aduPrefix m n = .ok bytes) :
    n ≤ aduCap ∧ (List.range n).map (aduRead m) = bytes.map some := by
  induction n generalizing bytes with
  | zero => cases h; simp
  | succ n ih =>
    simp only [aduPrefix] at h
    split at h
    · cases h
    · rename_i bs hbs
      split at h
      · cases h
      · rename_i b hb
        cases h
        obtain ⟨h1, h2⟩ := aduFetch_eq_ok hb
        exact ⟨h1, by simp [List.range_succ, (ih hbs).2, h2]⟩

/-- A prefix of the buffer that is there reads as its bytes. -/
theorem aduPrefix_ok {m : List Host.Cell} {n : Nat} (f : Nat → Byte) (hn : n ≤ aduCap)
    (h : ∀ i < n, aduRead m i = some (f i)) : aduPrefix m n = .ok ((List.range n).map f) := by
  induction n with
  | zero => rfl
  | succ n ih =>
    simp [aduPrefix, ih (by omega) (fun i hi => h i (by omega)), aduFetch_ok (by omega) (h n (by omega)),
      List.range_succ]

/-- A phase that reads a prefix and goes on. -/
theorem withAduPrefix_next {s t : State} {n : Nat} {k : List Byte → Result} (h : withAduPrefix s n k = .next t) :
    ∃ bytes, n ≤ aduCap ∧ (List.range n).map (aduRead s.adu) = bytes.map some ∧ k bytes = .next t := by
  unfold withAduPrefix at h
  split at h
  · rename_i bytes hb
    obtain ⟨h1, h2⟩ := aduPrefix_eq_ok hb
    exact ⟨bytes, h1, h2, h⟩
  · cases h

end Sys2Proof.Machine
end

