-- ==== Sys2Proof/Laws/State.lean ====
section
/-! SUPPORT. What each named update of the state leaves of each field, so that no later proof unfolds a record update. -/

namespace Sys2Proof.Machine

section SetPhase
variable (s : State) (p : Phase)
@[simp] theorem setPhase_phase : (s.setPhase p).phase = p := rfl
@[simp] theorem setPhase_cfg : (s.setPhase p).cfg = s.cfg := rfl
@[simp] theorem setPhase_t : (s.setPhase p).t = s.t := rfl
@[simp] theorem setPhase_txEn : (s.setPhase p).txEn = s.txEn := rfl
@[simp] theorem setPhase_fault : (s.setPhase p).fault = s.fault := rfl
@[simp] theorem setPhase_adu : (s.setPhase p).adu = s.adu := rfl
@[simp] theorem setPhase_rspIsSetup : (s.setPhase p).rspIsSetup = s.rspIsSetup := rfl
@[simp] theorem setPhase_rspSetupOk : (s.setPhase p).rspSetupOk = s.rspSetupOk := rfl
@[simp] theorem setPhase_env : (s.setPhase p).env = s.env := rfl
@[simp] theorem setPhase_trace : (s.setPhase p).trace = s.trace := rfl
@[simp] theorem setPhase_fuOut : (s.setPhase p).fuOut = s.fuOut := rfl
@[simp] theorem setPhase_draws : (s.setPhase p).draws = s.draws := rfl
@[simp] theorem setPhase_line : (s.setPhase p).line = s.line := rfl
/-- Writing the phase a state is in changes nothing. -/
theorem setPhase_self (h : s.phase = p) : s.setPhase p = s := by subst h; rfl
end SetPhase

section DriveTxEn
variable (s : State) (v : Bool)
@[simp] theorem driveTxEn_txEn : (s.driveTxEn v).txEn = v := rfl
@[simp] theorem driveTxEn_trace : (s.driveTxEn v).trace = s.trace ++ [.txEn v] := rfl
@[simp] theorem driveTxEn_cfg : (s.driveTxEn v).cfg = s.cfg := rfl
@[simp] theorem driveTxEn_t : (s.driveTxEn v).t = s.t := rfl
@[simp] theorem driveTxEn_phase : (s.driveTxEn v).phase = s.phase := rfl
@[simp] theorem driveTxEn_fault : (s.driveTxEn v).fault = s.fault := rfl
@[simp] theorem driveTxEn_adu : (s.driveTxEn v).adu = s.adu := rfl
@[simp] theorem driveTxEn_rspIsSetup : (s.driveTxEn v).rspIsSetup = s.rspIsSetup := rfl
@[simp] theorem driveTxEn_rspSetupOk : (s.driveTxEn v).rspSetupOk = s.rspSetupOk := rfl
@[simp] theorem driveTxEn_env : (s.driveTxEn v).env = s.env := rfl
@[simp] theorem driveTxEn_fuOut : (s.driveTxEn v).fuOut = s.fuOut := rfl
@[simp] theorem driveTxEn_draws : (s.driveTxEn v).draws = s.draws := rfl
@[simp] theorem driveTxEn_line : (s.driveTxEn v).line = s.line := rfl
end DriveTxEn

section DriveIfPresent
variable (v : Bool) (s : State)
@[simp] theorem driveIfPresent_txEn :
    (driveIfPresent v s).txEn = if s.cfg.txenPresent then v else s.txEn := by unfold driveIfPresent; split <;> rfl
@[simp] theorem driveIfPresent_trace :
    (driveIfPresent v s).trace = if s.cfg.txenPresent then s.trace ++ [.txEn v] else s.trace := by
  unfold driveIfPresent; split <;> rfl
@[simp] theorem driveIfPresent_cfg : (driveIfPresent v s).cfg = s.cfg := by unfold driveIfPresent; split <;> rfl
@[simp] theorem driveIfPresent_t : (driveIfPresent v s).t = s.t := by unfold driveIfPresent; split <;> rfl
@[simp] theorem driveIfPresent_phase : (driveIfPresent v s).phase = s.phase := by unfold driveIfPresent; split <;> rfl
@[simp] theorem driveIfPresent_fault : (driveIfPresent v s).fault = s.fault := by unfold driveIfPresent; split <;> rfl
@[simp] theorem driveIfPresent_adu : (driveIfPresent v s).adu = s.adu := by unfold driveIfPresent; split <;> rfl
@[simp] theorem driveIfPresent_rspIsSetup : (driveIfPresent v s).rspIsSetup = s.rspIsSetup := by
  unfold driveIfPresent; split <;> rfl
@[simp] theorem driveIfPresent_rspSetupOk : (driveIfPresent v s).rspSetupOk = s.rspSetupOk := by
  unfold driveIfPresent; split <;> rfl
@[simp] theorem driveIfPresent_env : (driveIfPresent v s).env = s.env := by unfold driveIfPresent; split <;> rfl
@[simp] theorem driveIfPresent_fuOut : (driveIfPresent v s).fuOut = s.fuOut := by unfold driveIfPresent; split <;> rfl
@[simp] theorem driveIfPresent_draws : (driveIfPresent v s).draws = s.draws := by unfold driveIfPresent; split <;> rfl
@[simp] theorem driveIfPresent_line : (driveIfPresent v s).line = s.line := by unfold driveIfPresent; split <;> rfl
end DriveIfPresent

section DrawResult
variable (s : State)
@[simp] theorem drawResult_t : s.drawResult.t = { s.t with result := Config.undefinedResult s.draws } := rfl
@[simp] theorem drawResult_draws : s.drawResult.draws = s.draws + 1 := rfl
@[simp] theorem drawResult_cfg : s.drawResult.cfg = s.cfg := rfl
@[simp] theorem drawResult_phase : s.drawResult.phase = s.phase := rfl
@[simp] theorem drawResult_txEn : s.drawResult.txEn = s.txEn := rfl
@[simp] theorem drawResult_fault : s.drawResult.fault = s.fault := rfl
@[simp] theorem drawResult_adu : s.drawResult.adu = s.adu := rfl
@[simp] theorem drawResult_rspIsSetup : s.drawResult.rspIsSetup = s.rspIsSetup := rfl
@[simp] theorem drawResult_rspSetupOk : s.drawResult.rspSetupOk = s.rspSetupOk := rfl
@[simp] theorem drawResult_env : s.drawResult.env = s.env := rfl
@[simp] theorem drawResult_trace : s.drawResult.trace = s.trace := rfl
@[simp] theorem drawResult_fuOut : s.drawResult.fuOut = s.fuOut := rfl
end DrawResult

section RaiseAduOverrun
variable (s : State)
@[simp] theorem raiseAduOverrun_phase : (raiseAduOverrun s).phase = .fault := rfl
@[simp] theorem raiseAduOverrun_fault : (raiseAduOverrun s).fault = true := rfl
@[simp] theorem raiseAduOverrun_cfg : (raiseAduOverrun s).cfg = s.cfg := rfl
@[simp] theorem raiseAduOverrun_t : (raiseAduOverrun s).t = s.t := rfl
@[simp] theorem raiseAduOverrun_txEn : (raiseAduOverrun s).txEn = s.txEn := rfl
@[simp] theorem raiseAduOverrun_adu : (raiseAduOverrun s).adu = s.adu := rfl
@[simp] theorem raiseAduOverrun_rspIsSetup : (raiseAduOverrun s).rspIsSetup = s.rspIsSetup := rfl
@[simp] theorem raiseAduOverrun_rspSetupOk : (raiseAduOverrun s).rspSetupOk = s.rspSetupOk := rfl
@[simp] theorem raiseAduOverrun_env : (raiseAduOverrun s).env = s.env := rfl
@[simp] theorem raiseAduOverrun_trace : (raiseAduOverrun s).trace = s.trace := rfl
@[simp] theorem raiseAduOverrun_fuOut : (raiseAduOverrun s).fuOut = s.fuOut := rfl
@[simp] theorem raiseAduOverrun_draws : (raiseAduOverrun s).draws = s.draws := rfl
@[simp] theorem raiseAduOverrun_line : (raiseAduOverrun s).line = s.line := rfl
end RaiseAduOverrun

section TakePoll
variable (s : State) (a : PollAnswer) (rest : List PollAnswer)
@[simp] theorem takePoll_env : (takePoll s a rest).env = { s.env with rx := rest } := rfl
@[simp] theorem takePoll_trace : (takePoll s a rest).trace = s.trace ++ [.rx a] := rfl
@[simp] theorem takePoll_cfg : (takePoll s a rest).cfg = s.cfg := rfl
@[simp] theorem takePoll_t : (takePoll s a rest).t = s.t := rfl
@[simp] theorem takePoll_phase : (takePoll s a rest).phase = s.phase := rfl
@[simp] theorem takePoll_txEn : (takePoll s a rest).txEn = s.txEn := rfl
@[simp] theorem takePoll_fault : (takePoll s a rest).fault = s.fault := rfl
@[simp] theorem takePoll_adu : (takePoll s a rest).adu = s.adu := rfl
@[simp] theorem takePoll_rspIsSetup : (takePoll s a rest).rspIsSetup = s.rspIsSetup := rfl
@[simp] theorem takePoll_rspSetupOk : (takePoll s a rest).rspSetupOk = s.rspSetupOk := rfl
@[simp] theorem takePoll_fuOut : (takePoll s a rest).fuOut = s.fuOut := rfl
@[simp] theorem takePoll_draws : (takePoll s a rest).draws = s.draws := rfl
@[simp] theorem takePoll_line : (takePoll s a rest).line = s.line := rfl
end TakePoll

section Inputs
variable (s : State)
@[simp] theorem takeCmd_env : (takeCmd s).env = { s.env with cmds := s.env.cmds.tail } := rfl
/-- Taking a command changes the inputs only. -/
theorem takeCmd_eq : takeCmd s = { s with env := (takeCmd s).env } := rfl
/-- Using up a sample of `rst` changes the inputs only. -/
theorem dropRst_eq : dropRst s = { s with env := { s.env with rst := s.env.rst.tail } } := rfl
/-- A frame from the slave changes the inputs only. -/
theorem deliver_fromSlave (bytes : List Byte) :
    deliver .fromSlave bytes s =
      { s with env := { s.env with wire := s.env.wire.tail, rx := s.env.rx ++ bytes.map some } } := rfl
/-- A frame to the slave changes the inputs and the record of the link only. -/
theorem deliver_toSlave (bytes : List Byte) :
    deliver .toSlave bytes s =
      { s with
        env := { s.env with wire := s.env.wire.tail }
        line := if bytes.isPrefixOf (outstanding s) then s.line ++ [bytes] else s.line } := by
  show crossBytes bytes (takeWire s) = _
  unfold crossBytes
  split
  · rename_i h
    rw [if_pos (show bytes.isPrefixOf (outstanding s) = true from h)]
    rfl
  · rename_i h
    rw [if_neg (show ¬ bytes.isPrefixOf (outstanding s) = true from h)]
    rfl
end Inputs

section TransmitStream
variable (trace more : List Event)
@[simp] theorem txBytes_nil : txBytes [] = [] := rfl
@[simp] theorem txBytes_append : txBytes (trace ++ more) = txBytes trace ++ txBytes more := by simp [txBytes]
@[simp] theorem txBytes_tx (b : Byte) : txBytes (.tx b :: trace) = b :: txBytes trace := rfl
@[simp] theorem txBytes_txEn (v : Bool) : txBytes (.txEn v :: trace) = txBytes trace := rfl
@[simp] theorem txBytes_drain (a : DrainAnswer) : txBytes (.drain a :: trace) = txBytes trace := rfl
@[simp] theorem txBytes_now (t : Word) : txBytes (.now t :: trace) = txBytes trace := rfl
@[simp] theorem txBytes_rx (a : PollAnswer) : txBytes (.rx a :: trace) = txBytes trace := rfl
@[simp] theorem txBytes_configure (w : BitVec Config.lcw) (a : ConfigureAnswer) :
    txBytes (.configure w a :: trace) = txBytes trace := rfl
@[simp] theorem txBytes_respond (r : Response) : txBytes (.respond r :: trace) = txBytes trace := rfl
end TransmitStream

end Sys2Proof.Machine
end

