-- ==== Sys2Proof/Laws/Exec.lean ====
section
/-! SUPPORT. For each shared operation, and for each meaning with more than one way to go on, one lemma that says once
everything it can do when it answers a next state. -/

namespace Sys2Proof.Machine

/-- A held phase whose number already stands in `phase` changes nothing. -/
theorem hold_self {s : State} {p : Phase} (h : s.phase = p) : hold p s = .next s := by rw [hold, setPhase_self s p h]

/-- Acceptance of SETUP: the first since reset. -/
theorem acceptSetup_next {txen : Bool} {ms : Word} {be sw : Bool} {line : BitVec Config.lcw} {s t : State}
    (h : acceptSetup txen ms be sw line s = .next t) :
    s.cfg.setupSeen = false ∧
      t = { takeCmd s with
        cfg := ⟨line, txen, ms, be, sw, s.cfg.configured, true⟩
        phase := .setupCfg } := by
  unfold acceptSetup at h
  split at h
  · cases h
  · rename_i hs
    cases h
    exact ⟨by simpa using hs, rfl⟩

/-- Acceptance of RDHR on an unconfigured block. -/
theorem acceptRdhr_unconfigured {s : State} (slave : Byte) (addr : Half) (count : Byte) (h : s.cfg.configured = false) :
    acceptRdhr slave addr count s =
      .next { takeCmd s with
        t := { s.t with
          slaveId := slave, functionCode, regAddr := addr, regCount := count, result := sentinel
          status := .notInitialized }
        rspIsSetup := false, phase := .respond } := by simp [acceptRdhr, h]

/-- Acceptance of RDHR on a configured block. -/
theorem acceptRdhr_configured {s : State} (slave : Byte) (addr : Half) (count : Byte) (h : s.cfg.configured = true) :
    acceptRdhr slave addr count s =
      .next { takeCmd s with
        t := { s.t with
          slaveId := slave, functionCode, regAddr := addr, regCount := count, result := sentinel, status := .ok }
        rspIsSetup := false, phase := .build } := by simp [acceptRdhr, h]

/-- IDLE: wait, or accept what is offered. -/
theorem execIdle_next {s t : State} (h : execIdle s = .next t) :
    (s.env.cmds = [] ∧ t = s.setPhase .idle) ∨
      ∃ c rest, s.env.cmds = c :: rest ∧
        ((c.op = 1 ∧ acceptRdhr c.slaveId c.regAddr c.regCount (s.setPhase .idle) = .next t) ∨
          (c.op ≠ 1 ∧
            acceptSetup c.txenPresent c.timeoutMs c.bigEndian c.regSwap c.lineCfg (s.setPhase .idle) = .next t)) := by
  unfold execIdle at h
  split at h
  · rename_i hc
    cases h
    exact .inl ⟨hc, rfl⟩
  · rename_i c rest hc
    refine .inr ⟨c, rest, hc, ?_⟩
    split at h
    · rename_i ho
      exact .inl ⟨ho, h⟩
    · rename_i ho
      exact .inr ⟨ho, h⟩

/-- What BUILD leaves at each index of the buffer. -/
theorem aduRead_staged (m : List Host.Cell) (slave : Byte) (addr : Half) (count : Byte) (i : Nat) :
    aduRead (aduWriteList m 0 (buildReadRequest slave addr count)) i =
      if i < 8 then (buildReadRequest slave addr count)[i]? else aduRead m i := by
  rw [aduRead_aduWriteList]
  simp [buildReadRequest, requestBody, crcTrailer]

/-- TX_WRITE: hold, or hand over the byte at the index. -/
theorem execTxWrite_next {s t : State} (h : execTxWrite s = .next t) :
    (s.env.txReady.head? ≠ some true ∧
        t = { s with phase := .txWrite, env := { s.env with txReady := s.env.txReady.tail } }) ∨
      ∃ rest b, s.env.txReady = true :: rest ∧ s.t.txIdx.toNat < aduCap ∧ aduRead s.adu s.t.txIdx.toNat = some b ∧
        t = { s with
          t := { s.t with txIdx := s.t.txIdx + 1 }
          env := { s.env with txReady := rest }
          trace := s.trace ++ [.tx b]
          phase := if s.t.txIdx + 1 = 8 then .txDrain else .txWrite } := by
  unfold execTxWrite at h
  split at h
  · rename_i hn
    cases h
    refine .inl ⟨by simp [hn], ?_⟩
    rw [show s.env.txReady.tail = s.env.txReady by rw [hn]; rfl]
    rfl
  · rename_i rest hn
    cases h
    exact .inl (by simp [hn, State.setPhase])
  · rename_i rest hn
    obtain ⟨b, hi, hb, h⟩ := withAdu_next h
    cases h
    exact .inr ⟨rest, b, hn, hi, hb, rfl⟩

/-- RESPOND: hold, or hand the response to the host. -/
theorem execRespond_next {s t : State} (h : execRespond s = .next t) :
    (s.env.rspReady.head? ≠ some true ∧
        t = { s with phase := .respond, env := { s.env with rspReady := s.env.rspReady.tail } }) ∨
      ∃ rest, s.env.rspReady = true :: rest ∧
        t = { s with
          env := { s.env with rspReady := rest }, trace := s.trace ++ [.respond (responseOf s)], phase := .idle } := by
  unfold execRespond at h
  split at h
  · rename_i hn
    cases h
    refine .inl ⟨by simp [hn], ?_⟩
    rw [show s.env.rspReady.tail = s.env.rspReady by rw [hn]; rfl]
    rfl
  · rename_i rest hn
    cases h
    exact .inl (by simp [hn, State.setPhase])
  · rename_i rest hn
    cases h
    exact .inr ⟨rest, hn, rfl⟩

/-- The store of RX_POLL: an overrun at a full buffer, a byte stored below it. -/
theorem storeByte_next {b : Byte} {s t : State} (h : storeByte b s = .next t) :
    (s.t.cursor = 10 ∧ t = raiseAduOverrun s) ∨
      (s.t.cursor.toNat < aduCap ∧
        t = { s with
          adu := aduWrite s.adu s.t.cursor.toNat b
          t := { s.t with cursor := s.t.cursor + 1, bytesRemaining := s.t.bytesRemaining - 1 }
          phase := .rxHeader }) := by
  unfold storeByte at h
  split at h
  · rename_i hc
    cases h
    exact .inl ⟨hc, rfl⟩
  · split at h
    · rename_i hc
      cases h
      exact .inr ⟨hc, rfl⟩
    · cases h

/-- RX_POLL: hold, go on without a byte, or store one. -/
theorem execRxPoll_next {s t : State} (h : execRxPoll s = .next t) :
    (s.env.rx = [] ∧ t = s.setPhase .rxPoll) ∨
      (∃ rest, s.env.rx = none :: rest ∧ t = (takePoll s none rest).setPhase .rxHeader) ∨
      ∃ b rest, s.env.rx = some b :: rest ∧ storeByte b (takePoll s (some b) rest) = .next t := by
  unfold execRxPoll at h
  split at h
  · rename_i hr
    cases h
    exact .inl ⟨hr, rfl⟩
  · rename_i rest hr
    cases h
    exact .inr (.inl ⟨rest, hr, rfl⟩)
  · rename_i b rest hr
    exact .inr (.inr ⟨b, rest, hr, h⟩)

/-- RX_HEADER: the checks with five bytes in, otherwise nothing. -/
theorem execRxHeader_next {s t : State} (h : execRxHeader s = .next t) :
    (s.t.cursor = 5 ∧ ∃ b0 b1 b2, aduRead s.adu 0 = some b0 ∧ aduRead s.adu 1 = some b1 ∧ aduRead s.adu 2 = some b2 ∧
        t = { s with
          t := { s.t with
            status := headerStatus s.t.slaveId s.t.functionCode b0 b1 s.t.status
            bytesRemaining := declaredCount b2 }
          phase := .rxDeadline }) ∨
      (s.t.cursor ≠ 5 ∧ t = s.setPhase .rxDeadline) := by
  unfold execRxHeader at h
  split at h
  · rename_i hc
    obtain ⟨b0, -, h0, h⟩ := withAdu_next h
    obtain ⟨b1, -, h1, h⟩ := withAdu_next h
    obtain ⟨b2, -, h2, h⟩ := withAdu_next h
    cases h
    exact .inl ⟨hc, b0, b1, b2, h0, h1, h2, rfl⟩
  · rename_i hc
    cases h
    exact .inr ⟨hc, rfl⟩

/-- CRC_CHECK: the comparison over OK with five bytes or more, otherwise nothing. -/
theorem execCrcCheck_next {s t : State} (h : execCrcCheck s = .next t) :
    (s.t.status = .ok ∧ hdrLen ≤ s.t.cursor.toNat ∧ s.t.cursor.toNat ≤ aduCap ∧ ∃ bytes : List Byte,
        (List.range s.t.cursor.toNat).map (aduRead s.adu) = bytes.map some ∧
        t = { s with
          t := { s.t with status := crcStatus bytes s.t.status, crc := crc16 (crcBody bytes) }, phase := .decode }) ∨
      (¬ (s.t.status = .ok ∧ hdrLen ≤ s.t.cursor.toNat) ∧ t = s.setPhase .decode) := by
  unfold execCrcCheck at h
  split at h
  · rename_i hc
    obtain ⟨bytes, hn, hb, h⟩ := withAduPrefix_next h
    cases h
    exact .inl ⟨hc.1, hc.2, hn, bytes, hb, rfl⟩
  · rename_i hc
    cases h
    exact .inr ⟨hc, rfl⟩

/-- DECODE: whatever the value, it goes to RESPOND, and only `t.result` and the count of draws change; a failed
transaction gets the sentinel. -/
theorem execDecode_next {s t : State} (h : execDecode s = .next t) :
    ∃ v n, t = { s with t := { s.t with result := v }, draws := n, phase := .respond } ∧
      (s.t.status ≠ .ok → v = sentinel) := by
  have hw : ∀ {v t'}, respondWith v s = .next t' → (s.t.status ≠ .ok → v = sentinel) →
      ∃ v n, t' = { s with t := { s.t with result := v }, draws := n, phase := .respond } ∧
        (s.t.status ≠ .ok → v = sentinel) := by
    intro v t' h hv
    cases h
    exact ⟨v, s.draws, rfl, hv⟩
  have hu : ∀ {t'}, respondUndefined s = .next t' → s.t.status = .ok →
      ∃ v n, t' = { s with t := { s.t with result := v }, draws := n, phase := .respond } ∧
        (s.t.status ≠ .ok → v = sentinel) := by
    intro t' h hs
    cases h
    exact ⟨_, _, rfl, fun hn => absurd hs hn⟩
  unfold execDecode at h
  split at h
  · exact hw h fun _ => rfl
  · rename_i hs
    have hs : s.t.status = .ok := by simpa using hs
    split at h
    · obtain ⟨b2, -, -, h⟩ := withAdu_next h
      split at h
      · obtain ⟨d0, -, -, h⟩ := withAdu_next h
        obtain ⟨d1, -, -, h⟩ := withAdu_next h
        exact hw h fun hn => absurd hs hn
      · exact hu h hs
    · split at h
      · obtain ⟨b2, -, -, h⟩ := withAdu_next h
        split at h
        · obtain ⟨d0, -, -, h⟩ := withAdu_next h
          obtain ⟨d1, -, -, h⟩ := withAdu_next h
          obtain ⟨d2, -, -, h⟩ := withAdu_next h
          obtain ⟨d3, -, -, h⟩ := withAdu_next h
          exact hw h fun hn => absurd hs hn
        · exact hu h hs
      · exact hu h hs

/-- The phase register of a reachable phase decodes to the phase's row. -/
theorem decode_phaseCode (p : Phase) : decode (.phase (phaseCode p)) = .ok (phaseInstr p) := by
  cases p <;> decide

/-- What the next step fetches: a frame, the offered command, or the phase. -/
theorem fetch_cases (s : State) :
    (∃ f rest, s.env.wire = f :: rest ∧ fetch s = .adu f.dir f.bytes) ∨
      (∃ c rest, s.env.wire = [] ∧ s.phase = .idle ∧ s.env.cmds = c :: rest ∧ fetch s = .cmd c) ∨
      (s.env.wire = [] ∧ (s.phase ≠ .idle ∨ s.env.cmds = []) ∧ fetch s = .phase (phaseCode s.phase)) := by
  unfold fetch
  split
  · rename_i f rest hw
    exact .inl ⟨f, rest, hw, rfl⟩
  · rename_i c rest hw hp hc
    exact .inr (.inl ⟨c, rest, hw, hp, hc, rfl⟩)
  · rename_i hw hn
    refine .inr (.inr ⟨hw, ?_, rfl⟩)
    by_cases hp : s.phase = .idle
    · cases hc : s.env.cmds with
      | nil => exact .inr rfl
      | cons c rest => exact absurd hc (hn c rest hp)
    · exact .inl hp

/-- One step: reset, or the step of the sequencer with the sample of `rst` used up. -/
theorem step_next {s t : State} (h : step s = .next t) :
    (∃ rest, s.env.rst = true :: rest ∧ t = resetBlock s) ∨
      (∃ rest, s.env.rst = false :: rest ∧ perform (dropRst s) = .next t) ∨
      (s.env.rst = [] ∧ perform s = .next t) := by
  unfold step at h
  split at h
  · rename_i rest hr
    cases h
    exact .inl ⟨rest, hr, rfl⟩
  · rename_i rest hr
    exact .inr (.inl ⟨rest, hr, h⟩)
  · rename_i hr
    exact .inr (.inr ⟨hr, h⟩)

/-- The step of the sequencer with nothing on the wire: the offered command in IDLE, else the phase. -/
theorem perform_phase {s : State} (hw : s.env.wire = []) (h : s.phase ≠ .idle ∨ s.env.cmds = []) :
    perform s = exec (phaseInstr s.phase) s := by
  rcases fetch_cases s with ⟨f, rest, hf, -⟩ | ⟨c, rest, -, hp, hc, -⟩ | ⟨-, -, hf⟩
  · simp [hw] at hf
  · rcases h with h | h
    · exact absurd hp h
    · simp [hc] at h
  · simp [perform, hf, decode_phaseCode]

end Sys2Proof.Machine
end

