-- ==== Sys2Proof/Laws/PerInstr.lean ====
section
/-! SUPPORT. Statements made of every instruction as syntax, one lemma per constructor: the format its encoding has is the
one its row of spec/opcode_table.json names (30_encoding R80). -/

namespace Sys2Proof.Laws

/-- The column `format` of spec/opcode_table.json. -/
def tableFormat : Instr → Format
  | .setup .. | .rdhr .. => .cmd
  | .crc16Update .. | .crc16 _ | .buildReadRequest .. | .decode16 .. | .decode32 .. => .func
  | .idle | .setupCfg | .build | .txAssert | .txWrite | .txDrain | .txRelease | .rxArm | .rxPoll | .rxHeader | .rxDeadline
  | .crcCheck | .decode | .respond | .fault => .phase
  | .reqRdhr .. | .rspNormal .. | .rspException .. => .adu

/-- The instruction is encoded in the format of its row. -/
def TableFormat.Statement (i : Instr) : Prop := (encode i).format = tableFormat i

theorem TableFormat.setup (t : Bool) (m : Word) (b w : Bool) (l : BitVec Config.lcw) :
    TableFormat.Statement (.setup t m b w l) := rfl
theorem TableFormat.rdhr (s : Byte) (a : Half) (n : Byte) : TableFormat.Statement (.rdhr s a n) := rfl
theorem TableFormat.crc16Update (c : Half) (b : Byte) : TableFormat.Statement (.crc16Update c b) := rfl
theorem TableFormat.crc16 (bytes : List Byte) : TableFormat.Statement (.crc16 bytes) := rfl
theorem TableFormat.buildReadRequest (s : Byte) (a : Half) (n : Byte) :
    TableFormat.Statement (.buildReadRequest s a n) := rfl
theorem TableFormat.decode16 (d0 d1 : Byte) (b : Bool) : TableFormat.Statement (.decode16 d0 d1 b) := rfl
theorem TableFormat.decode32 (d0 d1 d2 d3 : Byte) (b w : Bool) :
    TableFormat.Statement (.decode32 d0 d1 d2 d3 b w) := rfl
theorem TableFormat.idle : TableFormat.Statement .idle := rfl
theorem TableFormat.setupCfg : TableFormat.Statement .setupCfg := rfl
theorem TableFormat.build : TableFormat.Statement .build := rfl
theorem TableFormat.txAssert : TableFormat.Statement .txAssert := rfl
theorem TableFormat.txWrite : TableFormat.Statement .txWrite := rfl
theorem TableFormat.txDrain : TableFormat.Statement .txDrain := rfl
theorem TableFormat.txRelease : TableFormat.Statement .txRelease := rfl
theorem TableFormat.rxArm : TableFormat.Statement .rxArm := rfl
theorem TableFormat.rxPoll : TableFormat.Statement .rxPoll := rfl
theorem TableFormat.rxHeader : TableFormat.Statement .rxHeader := rfl
theorem TableFormat.rxDeadline : TableFormat.Statement .rxDeadline := rfl
theorem TableFormat.crcCheck : TableFormat.Statement .crcCheck := rfl
theorem TableFormat.decode : TableFormat.Statement .decode := rfl
theorem TableFormat.respond : TableFormat.Statement .respond := rfl
theorem TableFormat.fault : TableFormat.Statement .fault := rfl
theorem TableFormat.reqRdhr (s : Byte) (a : Half) (n lo hi : Byte) :
    TableFormat.Statement (.reqRdhr s a n lo hi) := rfl
theorem TableFormat.rspNormal (r c : Byte) (data : List Byte) (lo hi : Byte) :
    TableFormat.Statement (.rspNormal r c data lo hi) := rfl
theorem TableFormat.rspException (r : Byte) (f : BitVec 7) (e lo hi : Byte) :
    TableFormat.Statement (.rspException r f e lo hi) := rfl

end Sys2Proof.Laws
end

