-- ==== Sys2Proof/Tests/Slice0.lean ====
section
/-! SUPPORT. Tests: expected values are those of spec/95_test_vectors.md (its labels stand in the comments) or written out
by hand from the encodings of spec/30_encoding.md; and, for each obligation with hypotheses, a concrete state that meets
them, one per clause at the edges of its range. -/

namespace Sys2Proof.Tests

open Sys2Proof Sys2Proof.Machine

-- one theorem after the other: a hundred at once would each hold a thread's stack
set_option Elab.async false

/-! ### Small states -/

/-- The outcome is a next state of which `p` holds. -/
def onNext (r : Result) (p : State → Bool) : Bool :=
  match r with
  | .next t => p t
  | .fault _ | .refused _ => false

/-- The outcome is that fault. -/
def faults (r : Result) (f : Fault) : Bool :=
  match r with
  | .fault g => decide (g = f)
  | .next _ | .refused _ => false

/-- The outcome is that refusal. -/
def refuses (r : Result) (f : Refusal) : Bool :=
  match r with
  | .refused g => decide (g = f)
  | .next _ | .fault _ => false

/-- The configuration of P2 in 95. -/
def config : CfgRegs :=
  { lineCfg := 0, txenPresent := true, timeoutMs := 1000, bigEndian := true, regSwap := false, configured := true,
    setupSeen := true }

/-- The transaction registers of an accepted `RDHR 1, 0, 1`. -/
def request : TxnRegs :=
  { TxnRegs.reset with slaveId := 1, functionCode := 0x03, regCount := 1, result := 0xFFFFFFFF }

/-- A configured block in a phase of that transaction, with bytes in the buffer. -/
def inPhase (p : Phase) (bytes : List Byte) : State :=
  { State.reset with cfg := config, t := request, phase := p, adu := aduWriteList [] 0 bytes }

/-- The same with the parser's two counters. -/
def counting (p : Phase) (bytes : List Byte) (cursor : BitVec 4) (remaining : Byte) : State :=
  { inPhase p bytes with t := { request with cursor := cursor, bytesRemaining := remaining } }

/-- The request frame B1. -/
def frameB1 : List Byte := [0x01, 0x03, 0x00, 0x00, 0x00, 0x01, 0x84, 0x0A]

/-- What the host offers for `RDHR 1, 0, 1`. -/
def offerRdhr : CmdPort := rdhrPort 1 0 1

/-- What the host offers for the SETUP of P2. -/
def offerSetup : CmdPort := setupPort true 1000 true false 0

/-! ### Well-formed and ill-formed instructions -/

theorem test_wf_setup (line : BitVec Config.lcw) : (Instr.setup true 1000 true false line).wf = true := rfl
-- the width of the line word is that of its type; a word with one bit more is none
theorem test_reject_setup_line :
    decodeCmdWord (false :: true :: (bitsOf 32 1000 ++ true :: false :: List.replicate (Config.lcw + 1) true)) =
      .error .badLength := by
  simp [decodeCmdWord, portOfWord, Except.map]
theorem test_wf_request : (Instr.reqRdhr 1 0 1 0x84 0x0A).wf = true := by decide +kernel
theorem test_ill_formed_request_crc_swapped : (Instr.reqRdhr 1 0 1 0x0A 0x84).wf = false := by decide +kernel
theorem test_wf_response : (Instr.rspNormal 1 2 [0x12, 0x34] 0xB5 0x33).wf = true := by decide
theorem test_wf_response_masked_count : (Instr.rspNormal 1 0x82 [0x12, 0x34] 0xB4 0xDB).wf = true := by decide
theorem test_ill_formed_response_short : (Instr.rspNormal 1 2 [0x12] 0xB5 0x33).wf = false := by decide

/-! ### Decoding, one word per row written out from the spec -/

-- R82, the SETUP word of P2 with any line word: 0 t=1 m=1000 b=1 w=0 l...l
theorem test_decode_setup (line : BitVec Config.lcw) :
    decodeCmdWord ([false, true,
      false, false, false, false, false, false, false, false, false, false, false, false, false, false, false, false,
      false, false, false, false, false, false, true, true, true, true, true, false, true, false, false, false,
      true, false] ++ bitsOf Config.lcw line.toNat) = .ok (.setup true 1000 true false line) := by
  have h : fieldOf 32 [false, false, false, false, false, false, false, false, false, false, false, false, false, false,
      false, false, false, false, false, false, false, false, true, true, true, true, true, false, true, false, false,
      false] = 1000 := by decide
  simp [decodeCmdWord, portOfWord, Except.map, decodeCmd, setupPort, h]
-- R83, 2.2 of 95: `RDHR 0x11, 0x6B, 3` is `0x1_1100_6B03`
theorem test_decode_rdhr : decodeCmdWord (bitsOf 33 0x111006B03) = .ok (.rdhr 0x11 0x6B 3) := by decide
-- R94: the operands by name; U1, V2, B3, E1, E5 as operands
theorem test_decode_crc16Update : decode (.func .crc16Update [0xFF, 0xFE, 0x01]) = .ok (.crc16Update 0xFFFE 0x01) := by
  decide
theorem test_decode_crc16 : decode (.func .crc16 [0x01, 0x03]) = .ok (.crc16 [0x01, 0x03]) := by decide
theorem test_decode_buildReadRequest :
    decode (.func .buildReadRequest [0x11, 0x00, 0x6B, 3]) = .ok (.buildReadRequest 0x11 0x006B 3) := by decide
theorem test_decode_decode16 : decode (.func .decode16 [0x12, 0x34, 1]) = .ok (.decode16 0x12 0x34 true) := by decide
theorem test_decode_decode32 : decode (.func .decode32 [0, 1, 0, 2, 1, 0]) = .ok (.decode32 0 1 0 2 true false) := by
  decide
-- R90, code by code
theorem test_decode_idle : decode (.phase 0b0000) = .ok .idle := by decide
theorem test_decode_setupCfg : decode (.phase 0b0001) = .ok .setupCfg := by decide
theorem test_decode_build : decode (.phase 0b0010) = .ok .build := by decide
theorem test_decode_txAssert : decode (.phase 0b0011) = .ok .txAssert := by decide
theorem test_decode_txWrite : decode (.phase 0b0100) = .ok .txWrite := by decide
theorem test_decode_txDrain : decode (.phase 0b0101) = .ok .txDrain := by decide
theorem test_decode_txRelease : decode (.phase 0b0110) = .ok .txRelease := by decide
theorem test_decode_rxArm : decode (.phase 0b0111) = .ok .rxArm := by decide
theorem test_decode_rxPoll : decode (.phase 0b1000) = .ok .rxPoll := by decide
theorem test_decode_rxHeader : decode (.phase 0b1001) = .ok .rxHeader := by decide
theorem test_decode_rxDeadline : decode (.phase 0b1010) = .ok .rxDeadline := by decide
theorem test_decode_crcCheck : decode (.phase 0b1011) = .ok .crcCheck := by decide
theorem test_decode_decode : decode (.phase 0b1100) = .ok .decode := by decide
theorem test_decode_respond : decode (.phase 0b1101) = .ok .respond := by decide
theorem test_decode_fault : decode (.phase 0b1110) = .ok .fault := by decide
theorem test_reject_phase_15 : decode (.phase 0b1111) = .error .noSuchPhase := by decide
-- R84: B4; R86: X17, X18; R87: X7
theorem test_decode_reqRdhr :
    decode (.adu .toSlave [0xF7, 0x03, 0xFF, 0xFF, 0x00, 0x02, 0xD0, 0xB9]) = .ok (.reqRdhr 247 0xFFFF 2 0xD0 0xB9) := by
  decide
theorem test_decode_rspNormal :
    decode (.adu .fromSlave [0x01, 0x03, 0x82, 0x12, 0x34, 0xB4, 0xDB]) =
      .ok (.rspNormal 1 0x82 [0x12, 0x34] 0xB4 0xDB) := by decide
theorem test_decode_rspNormal_empty :
    decode (.adu .fromSlave [0x01, 0x03, 0x00, 0x20, 0xF0]) = .ok (.rspNormal 1 0 [] 0x20 0xF0) := by decide
theorem test_decode_rspException :
    decode (.adu .fromSlave [0x01, 0x84, 0x02, 0xC2, 0xC1]) = .ok (.rspException 1 4 2 0xC2 0xC1) := by decide
-- X3 answers function 4 without the exception bit: neither row of R86, R87
theorem test_reject_function_4 :
    decode (.adu .fromSlave [0x01, 0x04, 0x02, 0x12, 0x34, 0xB4, 0x47]) = .error .badFrame := by decide
theorem test_reject_request_count_high :
    decode (.adu .toSlave [0x01, 0x03, 0x00, 0x00, 0x01, 0x01, 0x84, 0x0A]) = .error .badFrame := by decide
theorem test_reject_short_response : decode (.adu .fromSlave [0x01, 0x03, 0x02, 0x12, 0x34, 0xB5]) = .error .badLength := by
  decide
theorem test_reject_operand : decode (.func .decode16 [0x12, 0x34, 2]) = .error .badOperand := by decide

/-! ### Table words -/

theorem test_table_idle : decodeTableWord 8 0x0 = some .idle := by decide
theorem test_table_fault : decodeTableWord 4 0xE = some .fault := by decide
theorem test_table_phase_15 : decodeTableWord 8 0xF = none := by decide
theorem test_table_rdhr : decodeTableWord 40 0x101000001 = some (.rdhr 1 0 1) := by decide
theorem test_table_rdhr_zero : decodeTableWord 40 0x100000000 = some (.rdhr 0 0 0) := by decide
theorem test_table_request : decodeTableWord 64 0x010300000001840A = some (.reqRdhr 1 0 1 0x84 0x0A) := by decide
theorem test_table_normal : decodeTableWord 56 0x01030212_34B533 = some (.rspNormal 1 2 [0x12, 0x34] 0xB5 0x33) := by decide
theorem test_table_exception : decodeTableWord 40 0x028302C0F1 = some (.rspException 2 3 2 0xC0 0xF1) := by decide
theorem test_table_functional_unit : decodeTableWord 0 0 = none := by decide
-- a placed word is what the step after reset performs
theorem test_placed_rdhr :
    onNext (step (State.reset.withFetchWord 40 0x101000001)) (fun t =>
      decide (t.phase = .respond) && decide (t.t.status = .notInitialized)) = true := by decide
theorem test_placed_phase :
    onNext (step (State.reset.withFetchWord 8 0x3)) (fun t => decide (t.phase = .txWrite)) = true := by decide
theorem test_placed_response :
    onNext (step (State.reset.withFetchWord 40 0x028302C0F1)) (fun t =>
      decide (t.env.rx = [some 0x02, some 0x83, some 0x02, some 0xC0, some 0xF1])) = true := by decide

/-! ### CRC engine -/

theorem test_crc_U1 : crc16Update 0xFFFF 0x01 = 0x807E := by decide
theorem test_crc_U7 : crc16Update 0x0000 0xFF = 0x4040 := by decide
theorem test_crc_V3 : crc16 [0x01, 0x03, 0x00, 0x00, 0x00, 0x01] = 0x0A84 := by decide +kernel
theorem test_crc_V5 : crc16 [0x31, 0x32, 0x33, 0x34, 0x35, 0x36, 0x37, 0x38, 0x39] = 0x4B37 := by decide +kernel
theorem test_exec_crc16Update_U9 :
    onNext (exec (.crc16Update 0x807E 0x03) State.reset) (fun t => decide (t.fuOut = some (.crc 0x2140))) = true := by
  decide
theorem test_exec_crc16_V13 :
    onNext (exec (.crc16 [0x01, 0x83, 0x02]) State.reset) (fun t => decide (t.fuOut = some (.crc 0xF1C0))) = true := by
  decide +kernel

/-! ### Frame builder and decoder -/

theorem test_build_B3 : buildReadRequest 0x11 0x006B 3 = [0x11, 0x03, 0x00, 0x6B, 0x00, 0x03, 0x76, 0x87] := by decide +kernel
theorem test_exec_build_B6 :
    onNext (exec (.buildReadRequest 255 0x1234 255) State.reset) (fun t =>
      decide (t.fuOut = some (.frame [0xFF, 0x03, 0x12, 0x34, 0x00, 0xFF, 0x54, 0xE2]))) = true := by decide +kernel
theorem test_build_different_operands : buildReadRequest 1 0x0100 1 ≠ buildReadRequest 1 0x0001 1 := by decide
theorem test_exec_decode16_E2 :
    onNext (exec (.decode16 0x12 0x34 false) State.reset) (fun t => decide (t.fuOut = some (.value 0x00003412))) = true := by
  decide
theorem test_exec_decode16_E3 :
    onNext (exec (.decode16 0xFF 0xFF true) State.reset) (fun t => decide (t.fuOut = some (.value 0x0000FFFF))) = true := by
  decide
theorem test_exec_decode32_E10 :
    onNext (exec (.decode32 0xDE 0xAD 0xBE 0xEF true true) State.reset) (fun t =>
      decide (t.fuOut = some (.value 0xBEEFDEAD))) = true := by decide
theorem test_exec_decode32_E12 :
    onNext (exec (.decode32 0xDE 0xAD 0xBE 0xEF false true) State.reset) (fun t =>
      decide (t.fuOut = some (.value 0xEFBEADDE))) = true := by decide

/-! ### Commands and responses -/

-- P2: SETUP of 95
theorem test_exec_setup :
    exec (.setup true 1000 true false 5) State.reset =
      .next { State.reset with
        phase := .setupCfg, cfg := { config with lineCfg := 5, configured := false } } := rfl
-- T3
theorem test_exec_setup_twice :
    refuses (exec (.setup false 1 false false 0) (inPhase .idle [])) .secondSetup = true := by decide
-- T1
theorem test_exec_rdhr_unconfigured :
    onNext (exec (.rdhr 1 0 1) State.reset) (fun t =>
      decide (t.phase = .respond ∧ t.t.status = .notInitialized ∧ t.t.result = 0xFFFFFFFF ∧ t.trace = [])) = true := by
  decide
theorem test_exec_rdhr :
    onNext (exec (.rdhr 1 0 1) (inPhase .idle [])) (fun t => decide (t.phase = .build ∧ t.t = request)) = true := by decide
theorem test_exec_idle_accepts :
    onNext (exec .idle { State.reset with env := { Env.empty with cmds := [offerSetup, offerRdhr] } }) (fun t =>
      decide (t.phase = .setupCfg ∧ t.env.cmds.map CmdPort.op = [1])) = true := by decide
-- T2
theorem test_exec_setupCfg_fail :
    onNext (exec .setupCfg { State.reset with phase := .setupCfg, env := { Env.empty with configure := [.fail] } })
      (fun t => decide (t.phase = .respond ∧ t.cfg.configured = false ∧ responseOf t = .setup false)) = true := by decide
theorem test_exec_respond :
    onNext (exec .respond { inPhase .respond [] with env := { Env.empty with rspReady := [true] } }) (fun t =>
      decide (t.phase = .idle ∧ t.trace = [.respond (.rdhr .ok 0xFFFFFFFF)])) = true := by decide
theorem test_exec_fault :
    onNext (exec .fault (inPhase .fault [])) (fun t => decide (t.phase = .fault ∧ t.fault = true)) = true := by decide
-- R95: RDHR response `0 x sss(OK) 0x00001234`
theorem test_response_word :
    (responseWord (.rdhr .crcError 0x80000001)).take 6 =
        [some false, none, some true, some true, some false, some true] ∧
      (responseWord (.rdhr .crcError 0x80000001)).length = 37 := by decide

-- R38, R123, R125: what the ports show
theorem test_ports_txWrite :
    (outputs (inPhase .txWrite frameB1)).txValid = true ∧ txData (inPhase .txWrite frameB1) = some 0x01 ∧
      tcfgLine { State.reset with cfg := { config with lineCfg := 5 } } = 5 := ⟨by decide, by decide, rfl⟩
-- R38: samples of the input ports become answers only where the port asks
theorem test_ports_answers :
    (answerConfigure [(false, true), (true, false)] (inPhase .setupCfg [])).env =
      { Env.empty with configure := [.fail] } := rfl
theorem test_ports_ready_counts :
    (sampleTxReady true (inPhase .txWrite frameB1)).env.txReady = [true] ∧
      (sampleRspReady true (inPhase .respond [])).env.rspReady = [true] := by decide
theorem test_ports_ready_is_not_banked :
    (sampleTxReady true (inPhase .idle [])).env.txReady = [] ∧
      (sampleRspReady true (inPhase .decode [])).env.rspReady = [] ∧
      (answerPoll 100 [⟨true, 9, 100⟩] (inPhase .idle [])).env.rx = [] := ⟨by decide, by decide, rfl⟩
-- R186: a value sampled in IDLE is gone in RX_ARM, which takes the one of its own cycle
theorem test_ports_clock_is_not_banked :
    (sampleClock 3 (inPhase .idle [])).env.now = [] ∧
      onNext (step (sampleClock 9 { sampleClock 3 (inPhase .idle []) with phase := .rxArm }))
        (fun t => decide (t.t.startMs = 9)) = true := by decide
theorem test_ports_poll_byte : (answerPoll 100 [⟨true, 9, 100⟩] (inPhase .rxPoll [])).env.rx = [some 9] := rfl
theorem test_ports_drain_done : (answerDrain 100 [⟨true, 100⟩] (inPhase .txDrain [])).env.drain = [.done] := rfl

/-! ### Transmit half -/

theorem test_exec_build :
    onNext (exec .build (inPhase .build [])) (fun t =>
      decide (t.phase = .txAssert ∧ t.adu = aduWriteList [] 0 frameB1)) = true := by decide +kernel
-- T4, T5
theorem test_exec_txAssert :
    onNext (exec .txAssert (inPhase .txAssert frameB1)) (fun t =>
      decide (t.phase = .txWrite ∧ t.txEn = true ∧ t.trace = [.txEn true])) = true := by decide
theorem test_exec_txAssert_full_duplex :
    onNext (exec .txAssert { inPhase .txAssert frameB1 with cfg := { config with txenPresent := false } }) (fun t =>
      decide (t.phase = .txWrite ∧ t.txEn = false ∧ t.trace = [])) = true := by decide
theorem test_exec_txWrite_last :
    onNext (exec .txWrite { inPhase .txWrite frameB1 with
      t := { request with txIdx := 7 }, env := { Env.empty with txReady := [true] } }) (fun t =>
      decide (t.phase = .txDrain ∧ t.t.txIdx = 8 ∧ t.trace = [.tx 0x0A])) = true := by decide
-- T6
theorem test_exec_txDrain_expired :
    onNext (exec .txDrain { inPhase .txDrain frameB1 with env := { Env.empty with drain := [.expired] } }) (fun t =>
      decide (t.phase = .txRelease ∧ t.t.status = .ok)) = true := by decide
theorem test_exec_txRelease :
    onNext (exec .txRelease { inPhase .txRelease frameB1 with txEn := true }) (fun t =>
      decide (t.phase = .rxArm ∧ t.txEn = false)) = true := by decide

/-! ### Receive parser -/

theorem test_exec_rxArm :
    onNext (exec .rxArm { inPhase .rxArm frameB1 with env := { Env.empty with now := [5000] } }) (fun t =>
      decide (t.phase = .rxPoll ∧ t.t.startMs = 5000 ∧ t.t.cursor = 0 ∧ t.t.bytesRemaining = 5)) = true := by decide
-- the example of R142
theorem test_exec_rxPoll :
    onNext (exec .rxPoll { counting .rxPoll frameB1 2 3 with env := { Env.empty with rx := [some 0x02] } }) (fun t =>
      decide (t.phase = .rxHeader ∧ aduRead t.adu 2 = some 0x02 ∧ t.t.cursor = 3 ∧ t.t.bytesRemaining = 2)) = true := by
  decide
-- P8, the eleventh byte
theorem test_exec_rxPoll_overrun :
    onNext (exec .rxPoll { counting .rxPoll [1, 3, 6, 1, 2, 3, 4, 5, 6, 0x9B] 10 1 with
      env := { Env.empty with rx := [some 0xB3] } }) (fun t =>
      decide (t.phase = .fault ∧ t.fault = true ∧ t.t.cursor = 10 ∧
        t.adu = aduWriteList [] 0 [1, 3, 6, 1, 2, 3, 4, 5, 6, 0x9B])) = true := by decide
-- X5: wrong address and exception
theorem test_exec_rxHeader_X5 :
    onNext (exec .rxHeader (counting .rxHeader [0x02, 0x83, 0x02, 0x30, 0xF1] 5 0)) (fun t =>
      decide (t.t.status = .modbusException ∧ t.t.bytesRemaining = 2)) = true := by decide
-- X4: wrong address and function
theorem test_exec_rxHeader_X4 :
    onNext (exec .rxHeader (counting .rxHeader [0x02, 0x04, 0x02, 0x12, 0x34] 5 0)) (fun t =>
      decide (t.t.status = .incorrectFunction)) = true := by decide
-- X15 and X14: elapsed 1000 and 1001
theorem test_exec_rxDeadline_X15 :
    onNext (exec .rxDeadline { counting .rxDeadline [] 7 0 with env := { Env.empty with now := [1000] } }) (fun t =>
      decide (t.t.status = .ok ∧ t.phase = .crcCheck)) = true := by decide
theorem test_exec_rxDeadline_X14 :
    onNext (exec .rxDeadline { counting .rxDeadline [] 7 0 with env := { Env.empty with now := [1001] } }) (fun t =>
      decide (t.t.status = .timeout ∧ t.phase = .crcCheck)) = true := by decide
-- X17 and X10
theorem test_exec_crcCheck_X17 :
    onNext (exec .crcCheck (counting .crcCheck [0x01, 0x03, 0x82, 0x12, 0x34, 0xB4, 0xDB] 7 0)) (fun t =>
      decide (t.t.status = .ok ∧ t.phase = .decode)) = true := by decide +kernel
theorem test_exec_crcCheck_X10 :
    onNext (exec .crcCheck (counting .crcCheck [0x01, 0x03, 0x02, 0x12, 0x34, 0xB5, 0x32] 7 0)) (fun t =>
      decide (t.t.status = .crcError)) = true := by decide +kernel
-- X1 and X20 (the surplus is ignored)
theorem test_exec_decode_X1 :
    onNext (exec .decode (counting .decode [0x01, 0x03, 0x02, 0x12, 0x34, 0xB5, 0x33] 7 0)) (fun t =>
      decide (t.t.result = 0x00001234 ∧ t.phase = .respond)) = true := by decide
-- X18: N = 0, any value, the status stays
theorem test_exec_decode_X18 :
    onNext (exec .decode (counting .decode [0x01, 0x03, 0x00, 0x20, 0xF0] 5 0)) (fun t =>
      decide (t.t.status = .ok ∧ t.phase = .respond)) = true := by decide

/-! ### Frames and reset -/

theorem test_exec_reqRdhr :
    onNext (exec (.reqRdhr 1 0 1 0x84 0x0A) { State.reset with trace := .txEn true :: frameB1.map .tx }) (fun t =>
      decide (t.line = [frameB1] ∧ outstanding t = [] ∧ t.trace = .txEn true :: frameB1.map .tx)) = true := by decide
-- R72: a frame the block has not handed over is not on the line
theorem test_exec_reqRdhr_unsent :
    onNext (exec (.reqRdhr 1 0 1 0x84 0x0A) { State.reset with trace := (frameB1.take 7).map .tx }) (fun t =>
      decide (t.line = [] ∧ t.trace = (frameB1.take 7).map .tx)) = true := by decide
theorem test_exec_rspNormal :
    onNext (exec (.rspNormal 1 0 [] 0x20 0xF0) { State.reset with env := { Env.empty with rx := [some 0x33] } }) (fun t =>
      decide (t.env.rx = [some 0x33, some 0x01, some 0x03, some 0x00, some 0x20, some 0xF0])) = true := by decide
theorem test_exec_rspException :
    onNext (exec (.rspException 1 3 2 0xC0 0xF1) State.reset) (fun t =>
      decide (t.env.rx = [some 0x01, some 0x83, some 0x02, some 0xC0, some 0xF1])) = true := by decide
-- T8
theorem test_reset_in_txWrite :
    onNext (step { inPhase .txWrite frameB1 with txEn := true, env := { Env.empty with rst := [true] } }) (fun t =>
      decide (t.phase = .idle ∧ t.txEn = false ∧ t.cfg.configured = false ∧ t.trace = [.txEn false])) = true := by decide

/-! ### Witnesses: states and operands that meet the hypotheses of the obligations -/

/-- The outcome is some next state. -/
def completes (r : Result) : Bool := onNext r fun _ => true

-- O1: the edges of the byte count
theorem test_witness_O1_request : (Instr.reqRdhr 255 0x1234 255 0x54 0xE2).wf = true := by decide +kernel
theorem test_witness_O1_normal_0 : (Instr.rspNormal 1 0x80 [] 0 0).wf = true := by decide
theorem test_witness_O1_normal_127 : (Instr.rspNormal 1 0xFF (List.replicate 127 0) 0 0).wf = true := by decide +kernel
-- O2
theorem test_witness_O2 :
    decode (.phase 0b1110) = .ok .fault ∧ ∀ port, (Encoded.phase 0b1110) ≠ .cmd port := by
  exact ⟨by decide, by intro port h; cases h⟩
theorem test_witness_O2_frame :
    decode (.adu .toSlave frameB1) = .ok (.reqRdhr 1 0 1 0x84 0x0A) ∧ ∀ port, (Encoded.adu .toSlave frameB1) ≠ .cmd port := by
  exact ⟨by decide, by intro port h; cases h⟩
-- O9: the shortest sequences, one with a match and one without
theorem test_witness_O9 :
    2 ≤ [0xFF, (0xFF : Byte)].length ∧ trailerMatches [0xFF, 0xFF] = true ∧ crc16 [0xFF, 0xFF] = 0 ∧
      trailerMatches [0xFF, 0xFE] = false ∧ crc16 [0xFF, 0xFE] ≠ 0 := by decide +kernel
-- O11
theorem test_witness_O11 : AduWf (inPhase .build frameB1).adu := by decide
-- O14
theorem test_witness_O14_first : State.reset.phase = .idle ∧ State.reset.cfg.setupSeen = false := by decide
theorem test_witness_O14_second : (inPhase .idle []).phase = .idle ∧ (inPhase .idle []).cfg.setupSeen = true := by decide
-- O15
theorem test_witness_O15_unconfigured : State.reset.phase = .idle ∧ State.reset.cfg.configured = false := by decide
theorem test_witness_O15_configured : (inPhase .idle []).phase = .idle ∧ (inPhase .idle []).cfg.configured = true := by decide
-- O16
theorem test_witness_O16 : (inPhase .setupCfg []).phase ≠ .idle ∧ (inPhase .fault []).phase ≠ .idle := by decide

/-- An idle configured block with commands, responses and answers ready. -/
def ready (cmds : List CmdPort) : State :=
  { inPhase .idle [] with
    env := { Env.empty with
      cmds := cmds, txReady := List.replicate 8 true, drain := [.expired], now := [5000], rspReady := [true] } }

-- O17
theorem test_witness_O17_waits : (ready []).phase = .idle ∧ (ready []).env.cmds = [] := by decide
theorem test_witness_O17_setup :
    (ready [offerSetup]).phase = .idle ∧ (ready [offerSetup]).env.cmds = offerSetup :: [] ∧ offerSetup.op = 0 := ⟨rfl, rfl, rfl⟩
theorem test_witness_O17_rdhr :
    (ready [offerRdhr]).phase = .idle ∧ (ready [offerRdhr]).env.cmds = offerRdhr :: [] ∧ offerRdhr.op ≠ 0 :=
  ⟨rfl, rfl, by decide⟩
-- O18
theorem test_witness_O18 :
    ({ State.reset with env := { Env.empty with configure := [.ok, .fail] } } : State).env.configure = .ok :: [.fail] ∧
      ({ State.reset with env := { Env.empty with configure := [.fail] } } : State).env.configure = .fail :: [] := by decide
-- O19
theorem test_witness_O19 : (ready []).env.rspReady = true :: [] ∧ (ready []).rspIsSetup = false := by decide
theorem test_witness_O19_setup :
    ({ ready [] with rspIsSetup := true, rspSetupOk := true } : State).env.rspReady = true :: [] := by decide

/-- A faulted block; `samples` are those of `rst`. -/
def faulted (samples : List Bool) : State :=
  { counting .fault [1, 3, 6, 1, 2, 3, 4, 5, 6, 0x9B] 10 1 with fault := true, env := { Env.empty with rst := samples } }

-- O20
theorem test_witness_O20_stays :
    (faulted []).phase = .fault ∧ (faulted []).fault = true ∧ (faulted []).env.rst = [] ∧ (faulted []).env.wire = [] ∧
      Inv (faulted []) := by
  refine ⟨by decide, by decide, by decide, by decide, by decide, by decide, by decide, by decide, by decide, ?_⟩
  show InTransaction (faulted []) ∧ (faulted []).t.cursor.toNat = 10 ∧ 5 < declaredN (faulted [])
  decide
theorem test_witness_O20_reset :
    (faulted [true]).phase = .fault ∧ (faulted [true]).fault = true ∧ (faulted [true]).env.rst = true :: [] := by decide

/-- TX_WRITE at an index. -/
def writing (idx : BitVec 4) (bytes : List Byte) : State :=
  { inPhase .txWrite bytes with t := { request with txIdx := idx }, env := { Env.empty with txReady := [true] } }

-- O22: first, last of the frame, last of the buffer
theorem test_witness_O22_first :
    (writing 0 frameB1).env.txReady = true :: [] ∧ (writing 0 frameB1).t.txIdx.toNat < 10 ∧
      aduRead (writing 0 frameB1).adu (writing 0 frameB1).t.txIdx.toNat = some 0x01 := by decide
theorem test_witness_O22_last :
    (writing 7 frameB1).env.txReady = true :: [] ∧ (writing 7 frameB1).t.txIdx.toNat < 10 ∧
      aduRead (writing 7 frameB1).adu (writing 7 frameB1).t.txIdx.toNat = some 0x0A := by decide
theorem test_witness_O22_beyond :
    (writing 9 (frameB1 ++ [2, 3])).env.txReady = true :: [] ∧ (writing 9 (frameB1 ++ [2, 3])).t.txIdx.toNat < 10 ∧
      aduRead (writing 9 (frameB1 ++ [2, 3])).adu 9 = some 3 := by decide
-- O23
theorem test_witness_O23 : (ready []).env.drain = .expired :: [] := by decide
-- O25
theorem test_witness_O25 : (ready []).env.now = 5000 :: [] := by decide

/-- RX_POLL with a cursor and one answer. -/
def polling (cursor : BitVec 4) (remaining : Byte) (a : PollAnswer) : State :=
  { counting .rxPoll (frameB1 ++ [2, 3]) cursor remaining with env := { Env.empty with rx := [a], now := [1001] } }

-- O26: no byte; the last store; the overrun; beyond it
theorem test_witness_O26_none : (polling 3 2 none).env.rx = none :: [] := by decide
theorem test_witness_O26_stores :
    (polling 9 1 (some 7)).env.rx = some 7 :: [] ∧ (polling 9 1 (some 7)).t.cursor.toNat < 10 ∧
      AduWf (polling 9 1 (some 7)).adu ∧ 0 < (polling 9 1 (some 7)).t.bytesRemaining.toNat := by decide
theorem test_witness_O26_overruns :
    (polling 10 1 (some 7)).env.rx = some 7 :: [] ∧ (polling 10 1 (some 7)).t.cursor.toNat = 10 := by decide
theorem test_witness_O26_beyond :
    (polling 11 1 (some 7)).env.rx = some 7 :: [] ∧ 10 < (polling 11 1 (some 7)).t.cursor.toNat ∧
      faults (exec .rxPoll (polling 11 1 (some 7))) (.noSuchByte 11) = true := by decide
-- O27
theorem test_witness_O27_five :
    (counting .rxHeader [2, 0x83, 2, 0, 0] 5 0).t.cursor.toNat = 5 ∧
      aduRead (counting .rxHeader [2, 0x83, 2, 0, 0] 5 0).adu 0 = some 2 ∧
      aduRead (counting .rxHeader [2, 0x83, 2, 0, 0] 5 0).adu 1 = some 0x83 ∧
      aduRead (counting .rxHeader [2, 0x83, 2, 0, 0] 5 0).adu 2 = some 2 := by decide
theorem test_witness_O27_four : (counting .rxHeader [2, 0x83, 2, 0] 4 1).t.cursor.toNat ≠ 5 := by decide
theorem test_witness_O27_six : (counting .rxHeader [2, 0x83, 2, 0, 0, 0] 6 1).t.cursor.toNat ≠ 5 := by decide
-- O28: elapsed equal to the timeout, one more
theorem test_witness_O28 :
    ({ counting .rxDeadline [] 0 5 with env := { Env.empty with now := [1000] } } : State).env.now = 1000 :: [] ∧
      ({ counting .rxDeadline [] 0 5 with env := { Env.empty with now := [1001] } } : State).env.now = 1001 :: [] := by decide
-- O29: five bytes, ten bytes; skipped over a failure, skipped below five
theorem test_witness_O29_five :
    let s := counting .crcCheck [1, 3, 0, 0x20, 0xF0] 5 0
    s.t.status = .ok ∧ s.t.cursor.toNat = [(1 : Byte), 3, 0].length + 2 ∧ 5 ≤ s.t.cursor.toNat ∧ s.t.cursor.toNat ≤ 10 ∧
      ∀ k < s.t.cursor.toNat, aduRead s.adu k = ([1, 3, 0] ++ [0x20, 0xF0])[k]? := by decide
theorem test_witness_O29_ten :
    let s := counting .crcCheck [1, 3, 5, 1, 2, 3, 4, 5, 0xBC, 0x29] 10 0
    s.t.status = .ok ∧ s.t.cursor.toNat = [(1 : Byte), 3, 5, 1, 2, 3, 4, 5].length + 2 ∧ 5 ≤ s.t.cursor.toNat ∧
      s.t.cursor.toNat ≤ 10 ∧
      ∀ k < s.t.cursor.toNat, aduRead s.adu k = ([1, 3, 5, 1, 2, 3, 4, 5] ++ [0xBC, 0x29])[k]? := by decide
theorem test_witness_O29_skipped :
    ({ request with status := .timeout } : TxnRegs).status ≠ .ok ∧ (counting .crcCheck [1, 3, 0, 0] 4 1).t.cursor.toNat < 5 := by
  decide
-- O30
theorem test_witness_O30_failed :
    ({ counting .decode [] 5 0 with t := { request with status := .crcError } } : State).t.status ≠ .ok := by decide
theorem test_witness_O30_one :
    let s := counting .decode [1, 3, 2, 0x12, 0x34, 0xB5, 0x33] 7 0
    s.t.status = .ok ∧ s.t.regCount = 1 ∧ aduRead s.adu 2 = some 2 ∧ 2 ≤ (2 : Byte).toNat % 128 ∧
      aduRead s.adu 3 = some 0x12 ∧ aduRead s.adu 4 = some 0x34 := by decide

/-- DECODE of a transaction of `count` registers. -/
def decoding (count : Byte) (bytes : List Byte) : State :=
  { inPhase .decode bytes with t := { request with regCount := count } }

theorem test_witness_O30_two :
    let s := decoding 2 [1, 3, 4, 0, 1, 0, 2, 0x2A, 0x32]
    s.t.status = .ok ∧ s.t.regCount = 2 ∧ aduRead s.adu 2 = some 4 ∧ 4 ≤ (4 : Byte).toNat % 128 ∧
      aduRead s.adu 3 = some 0 ∧ aduRead s.adu 4 = some 1 ∧ aduRead s.adu 5 = some 0 ∧ aduRead s.adu 6 = some 2 := by decide
-- O31: counts 0 and 3; one byte of two, three of four
theorem test_witness_O31_count :
    (decoding 0 []).t.status = .ok ∧ ((decoding 0 []).t.regCount ≠ 1 ∧ (decoding 0 []).t.regCount ≠ 2) ∧
      (decoding 3 []).t.regCount ≠ 1 ∧ (decoding 3 []).t.regCount ≠ 2 := by decide
theorem test_witness_O31_short :
    (decoding 1 [1, 3, 0x81]).t.status = .ok ∧ aduRead (decoding 1 [1, 3, 0x81]).adu 2 = some 0x81 ∧
      ((decoding 1 [1, 3, 0x81]).t.regCount = 1 ∧ (0x81 : Byte).toNat % 128 < 2) ∧
      aduRead (decoding 2 [1, 3, 3]).adu 2 = some 3 ∧ ((decoding 2 [1, 3, 3]).t.regCount = 2 ∧ (3 : Byte).toNat % 128 < 4) := by
  decide
-- O32: a frame handed over whole, one of which a byte is missing
theorem test_witness_O32 :
    frameB1 <+: outstanding { State.reset with trace := frameB1.map .tx } ∧
      ¬ frameB1 <+: outstanding { State.reset with trace := (frameB1.take 7).map .tx } := by decide
-- O33
theorem test_witness_O33 :
    ((inPhase .setupCfg []).phase = .setupCfg ∧ (inPhase .setupCfg []).env.configure = []) ∧
      ((inPhase .txWrite []).phase = .txWrite ∧ (inPhase .txWrite []).env.txReady = []) ∧
      ((inPhase .txDrain []).phase = .txDrain ∧ (inPhase .txDrain []).env.drain = []) ∧
      ((inPhase .rxArm []).phase = .rxArm ∧ (inPhase .rxArm []).env.now = []) ∧
      ((inPhase .rxPoll []).phase = .rxPoll ∧ (inPhase .rxPoll []).env.rx = []) ∧
      ((inPhase .rxDeadline []).phase = .rxDeadline ∧ (inPhase .rxDeadline []).env.now = []) ∧
      ((inPhase .respond []).phase = .respond ∧ (inPhase .respond []).env.rspReady = []) := by decide
theorem test_witness_O33_not_ready :
    let s := inPhase .txWrite frameB1
    let r := inPhase .respond []
    (s.phase = .txWrite ∧ { s.env with txReady := [false, true] }.txReady = false :: [true]) ∧
      (r.phase = .respond ∧ { r.env with rspReady := [false] }.rspReady = false :: []) := by decide
-- O34
theorem test_witness_O34_no_such : (writing 10 frameB1).env.txReady = true :: [] ∧ 10 ≤ (writing 10 frameB1).t.txIdx.toNat := by
  decide
theorem test_witness_O34_unwritten :
    (writing 9 frameB1).env.txReady = true :: [] ∧ (writing 9 frameB1).t.txIdx.toNat < 10 ∧
      aduRead (writing 9 frameB1).adu (writing 9 frameB1).t.txIdx.toNat = none := by decide
theorem test_witness_O34_header :
    let s := counting .rxHeader [1, 3] 5 0
    2 < 3 ∧ s.t.cursor.toNat = 5 ∧ (∀ j < 2, (aduRead s.adu j).isSome = true) ∧ aduRead s.adu 2 = none ∧
      aduRead (counting .rxHeader [] 5 0).adu 0 = none ∧ aduRead (counting .rxHeader [1] 5 0).adu 1 = none := by decide
theorem test_witness_O34_crc :
    let s := counting .crcCheck frameB1 10 0
    s.t.status = .ok ∧ 5 ≤ s.t.cursor.toNat ∧ 8 < s.t.cursor.toNat ∧ 8 < 10 ∧
      (∀ j < 8, (aduRead s.adu j).isSome = true) ∧ aduRead s.adu 8 = none := by decide
theorem test_witness_O34_crc_beyond :
    let s := counting .crcCheck (frameB1 ++ [2, 3]) 11 0
    s.t.status = .ok ∧ 5 ≤ s.t.cursor.toNat ∧ 10 < s.t.cursor.toNat ∧ (∀ j < 10, (aduRead s.adu j).isSome = true) ∧
      faults (exec .crcCheck s) (.noSuchByte 10) = true := by decide
theorem test_witness_O34_decode :
    (decoding 1 []).t.status = .ok ∧ ((decoding 1 []).t.regCount = 1 ∨ (decoding 1 []).t.regCount = 2) ∧
      aduRead (decoding 1 []).adu 2 = none := by decide
-- the last data byte of one register, and of two
theorem test_witness_O34_decode_one :
    let s := decoding 1 [1, 3, 2, 9]
    s.t.status = .ok ∧ s.t.regCount = 1 ∧ aduRead s.adu 2 = some 2 ∧ 2 * s.t.regCount.toNat ≤ (2 : Byte).toNat % 128 ∧
      3 ≤ 4 ∧ 4 < 3 + 2 * s.t.regCount.toNat ∧ (∀ j < 4, 3 ≤ j → (aduRead s.adu j).isSome = true) ∧
      aduRead s.adu 4 = none ∧ faults (exec .decode s) (.unwrittenByte 4) = true := by decide
theorem test_witness_O34_decode_two :
    let s := decoding 2 [1, 3, 4, 9, 9, 9]
    s.t.status = .ok ∧ s.t.regCount = 2 ∧ aduRead s.adu 2 = some 4 ∧ 2 * s.t.regCount.toNat ≤ (4 : Byte).toNat % 128 ∧
      3 ≤ 6 ∧ 6 < 3 + 2 * s.t.regCount.toNat ∧ (∀ j < 6, 3 ≤ j → (aduRead s.adu j).isSome = true) ∧
      aduRead s.adu 6 = none ∧ faults (exec .decode s) (.unwrittenByte 6) = true := by decide
-- O35: a frame, a command, a phase
theorem test_witness_O35_frame :
    let s := { ready [offerRdhr] with env := { Env.empty with wire := [⟨.toSlave, frameB1⟩] } }
    s.env.rst = [] ∧ decode (fetch s) = .ok (.reqRdhr 1 0 1 0x84 0x0A) ∧
      s.env.wire = ⟨.toSlave, frameB1⟩ :: [] := by decide
theorem test_witness_O35_command :
    let s := ready [offerRdhr]
    s.env.rst = [] ∧ decode (fetch s) = .ok (.rdhr 1 0 1) ∧ s.env.wire = [] ∧ s.phase = .idle ∧
      s.env.cmds = offerRdhr :: [] := ⟨rfl, rfl, rfl, rfl, rfl⟩
theorem test_witness_O35_phase :
    let s := inPhase .build []
    s.env.rst = [] ∧ decode (fetch s) = .ok .build ∧ s.env.wire = [] ∧ s.phase ≠ .idle := by decide
theorem test_witness_O35_idle :
    State.reset.env.rst = [] ∧ decode (fetch State.reset) = .ok .idle ∧ State.reset.env.wire = [] ∧
      State.reset.env.cmds = [] := by decide
-- O36
theorem test_witness_O36 : (faulted [true]).env.rst = true :: [] ∧ (faulted [false]).env.rst = false :: [] := by decide

/-- A state of the invariant in the middle of a transmission on a half-duplex link. -/
def transmitting : State := { writing 3 frameB1 with txEn := true }

theorem test_inv_transmitting : Inv transmitting := by
  refine ⟨by decide, by decide, by decide, by decide, by decide, ?_⟩
  show InTransaction transmitting ∧ transmitting.t.status = .ok ∧ RequestStaged transmitting ∧
    transmitting.t.txIdx.toNat < 8
  decide +kernel

/-- A state of the invariant whose next byte overruns the buffer. -/
def overrunning : State :=
  { counting .rxPoll [1, 3, 6, 1, 2, 3, 4, 5, 6, 0x9B] 10 1 with env := { Env.empty with rx := [some 0xB3] } }

theorem test_inv_overrunning : Inv overrunning := by
  refine ⟨by decide, by decide, by decide, by decide, by decide, ?_⟩
  show InTransaction overrunning ∧ overrunning.t.status = .ok ∧ BytesPresent overrunning overrunning.t.cursor.toNat ∧
    0 < overrunning.t.bytesRemaining.toNat ∧
    (HeaderPending overrunning ∨ (PayloadPending overrunning ∧ HeaderOk overrunning))
  decide +kernel

theorem test_inv_ready : Inv (ready [offerSetup]) :=
  ⟨by decide, by decide, by decide, by decide, by decide, trivial⟩

-- O39: an ordinary step, the step into FAULT
theorem test_witness_O39 : Inv transmitting ∧ completes (step transmitting) = true :=
  ⟨test_inv_transmitting, by decide⟩
theorem test_witness_O39_overrun : Inv overrunning ∧ onNext (step overrunning) (fun t => decide (t.phase = .fault)) = true :=
  ⟨test_inv_overrunning, by decide⟩
-- O40: the one refusal
theorem test_witness_O40 : Inv (ready [offerSetup]) ∧ refuses (step (ready [offerSetup])) .secondSetup = true :=
  ⟨test_inv_ready, by decide⟩
-- O41: one state per clause
theorem test_witness_O41 :
    transmitting.env.rst = [] ∧ transmitting.env.wire = [] ∧ completes (step transmitting) = true := by decide
theorem test_witness_O41_sampled :
    let s := { transmitting with env := { transmitting.env with rst := [false] } }
    s.env.rst = [false] ∧ s.env.wire = [] ∧ completes (step s) = true := by decide
theorem test_witness_O41_reset :
    (faulted [true]).env.rst = true :: [] ∧ completes (step (faulted [true])) = true := by decide
-- O42: the first SETUP, an RDHR by IDLE, a command held in a block that has seen its SETUP
theorem test_witness_O42_setup : completes (exec (.setup true 1000 true false 0) State.reset) = true := by decide
theorem test_witness_O42_idle :
    completes (exec .idle (ready [offerRdhr])) = true ∧ (ready [offerRdhr]).env.cmds = offerRdhr :: [] ∧ offerRdhr.op = 1 :=
  ⟨by decide, rfl, rfl⟩
theorem test_witness_O42_seen :
    completes (exec (.setup false 1 false false 0) (inPhase .build [])) = true ∧
      (inPhase .build []).cfg.setupSeen = true := by decide
-- O43, O44, O45: the writers complete
theorem test_witness_O43 :
    completes (exec .txAssert (inPhase .txAssert frameB1)) = true ∧ completes (exec .txRelease transmitting) = true ∧
      completes (exec .rxPoll overrunning) = true := by decide
theorem test_witness_O44 :
    completes (exec .build (inPhase .build [])) = true ∧ completes (exec .rxPoll (polling 9 1 (some 7))) = true ∧
      completes (exec .txWrite transmitting) = true := by decide
theorem test_witness_O45 :
    completes (exec .rxHeader (counting .rxHeader frameB1 5 0)) = true ∧
      completes (exec (.rdhr 1 0 1) (inPhase .idle [])) = true ∧
      completes (exec .crcCheck (counting .crcCheck frameB1 5 0)) = true := by decide +kernel

/-- A block about to deliver the response of an RDHR. -/
def answering (status : Status) (configured : Bool) : State :=
  { inPhase .respond [] with
    cfg := { config with configured := configured }, t := { request with status := status },
    env := { Env.empty with rspReady := [true] } }

theorem test_answering (status : Status) (configured : Bool)
    (h1 : status ≠ .ok → (answering status configured).t.result = sentinel)
    (h2 : status = .notInitialized ↔ configured = false) : PhaseInv (answering status configured) := ⟨h1, h2⟩

-- O46: a failure of a configured block, NotInitialized of an unconfigured one
theorem test_witness_O46 :
    Inv (answering .crcError true) ∧ (answering .crcError true).phase = .respond ∧
      (answering .crcError true).rspIsSetup = false ∧ (answering .crcError true).env.rst = [] ∧
      (answering .crcError true).env.wire = [] ∧ (answering .crcError true).env.rspReady = true :: [] :=
  ⟨⟨by decide, by decide, by decide, by decide, by decide, test_answering _ _ (by decide) (by decide)⟩, by decide⟩
theorem test_witness_O46_unconfigured :
    Inv (answering .notInitialized false) ∧ (answering .notInitialized false).phase = .respond ∧
      (answering .notInitialized false).rspIsSetup = false ∧ (answering .notInitialized false).env.rst = [] ∧
      (answering .notInitialized false).env.wire = [] ∧ (answering .notInitialized false).env.rspReady = true :: [] :=
  ⟨⟨by decide, by decide, by decide, by decide, by decide, test_answering _ _ (by decide) (by decide)⟩, by decide⟩
-- O47: program P1
theorem test_witness_O47 :
    let s := { State.reset with env := { Env.empty with cmds := [offerRdhr], rspReady := [true] } }
    s.phase = .idle ∧ s.cfg.configured = false ∧ s.env.rst = [] ∧ s.env.wire = [] ∧ s.env.cmds = offerRdhr :: [] ∧
      offerRdhr.op = 1 ∧ s.env.rspReady = true :: [] := ⟨rfl, rfl, rfl, rfl, rfl, rfl, rfl⟩
-- O48
theorem test_witness_O48 :
    let s := ready [offerRdhr]
    s.phase = .idle ∧ s.cfg.configured = true ∧ s.env.rst = [] ∧ s.env.wire = [] ∧ s.env.cmds = offerRdhr :: [] ∧
      offerRdhr.op = 1 ∧ s.env.txReady = List.replicate 8 true ++ [] ∧ s.env.drain = .expired :: [] ∧
      s.env.now = 5000 :: [] := ⟨rfl, rfl, rfl, rfl, rfl, rfl, rfl, rfl, rfl⟩

/-- The head of the receive loop after some bytes, with answers to come. -/
def looping (bytes : List Byte) (cursor : BitVec 4) (remaining : Byte) (rx : List PollAnswer) (now : List Word) : State :=
  { counting .rxPoll bytes cursor remaining with env := { Env.empty with rx := rx, now := now } }

theorem test_looping_ready (bytes : List Byte) (cursor : BitVec 4) (remaining : Byte) (rx : List PollAnswer)
    (now : List Word) : LoopReady (looping bytes cursor remaining rx now) rx now :=
  ⟨rfl, rfl, rfl, rfl, rfl, rfl⟩

-- O49: the fifth byte, an overrun
theorem test_witness_O49 :
    LoopReady (looping [1, 3, 2, 0] 4 1 [some 7] [9]) (some 7 :: []) (9 :: []) ∧
      Abstracts { buf := [1, 3, 2, 0], rem := 1, st := .ok } (looping [1, 3, 2, 0] 4 1 [some 7] [9]) ∧
      loopStep 1 1000 0 { buf := [1, 3, 2, 0], rem := 1, st := .ok } (some 7, 9) =
        some { buf := [1, 3, 2, 0, 7], rem := 2, st := .ok } :=
  ⟨test_looping_ready .., ⟨by decide, by decide, by decide, by decide, by decide⟩, by decide⟩
theorem test_witness_O49_overrun :
    LoopReady (looping (frameB1 ++ [2, 3]) 10 1 [some 7] [9]) (some 7 :: []) (9 :: []) ∧
      Abstracts { buf := frameB1 ++ [2, 3], rem := 1, st := .ok } (looping (frameB1 ++ [2, 3]) 10 1 [some 7] [9]) ∧
      loopStep 1 1000 0 { buf := frameB1 ++ [2, 3], rem := 1, st := .ok } (some 7, 9) = none :=
  ⟨test_looping_ready .., ⟨by decide, by decide, by decide, by decide, by decide⟩, by decide⟩

/-- Answers that give these bytes, all at the time 0. -/
def giving (bytes : List Byte) : List (PollAnswer × Word) := bytes.map fun b => (some b, 0)

/-- The head of the loop before those answers, with one poll more waiting. -/
def startOf (bytes : List Byte) : State :=
  looping [] 0 5 ((giving bytes).map Prod.fst ++ [none]) ((giving bytes).map Prod.snd ++ [7])

theorem test_startOf (bytes : List Byte) :
    LoopReady (startOf bytes) ((giving bytes).map Prod.fst ++ [none]) ((giving bytes).map Prod.snd ++ [7]) ∧
      Abstracts Loop.start (startOf bytes) :=
  ⟨test_looping_ready .., ⟨rfl, by decide, fun i hi => absurd hi (by simp [Loop.start]), rfl, rfl⟩⟩

-- O50, with test_startOf: ended (X6), overrun (P8), still running
theorem test_witness_O50_ended :
    loopRun 1 1000 0 (giving [0x01, 0x83, 0x02, 0xC0, 0xF1]) Loop.start =
      .ended { buf := [0x01, 0x83, 0x02, 0xC0, 0xF1], rem := 2, st := .modbusException } 5 := by decide +kernel
theorem test_witness_O50_overrun :
    loopRun 1 1000 0 (giving [1, 3, 6, 1, 2, 3, 4, 5, 6, 0x9B, 0xB3]) Loop.start = .overrun 11 := by decide +kernel
theorem test_witness_O50_running :
    loopRun 1 1000 0 (giving [1]) Loop.start = .running { buf := [1], rem := 4, st := .ok } := by decide +kernel
-- O51: X8 at the last instant in time
theorem test_witness_O51 :
    LoopReady (looping [2, 0x84, 1, 0x72] 4 1 [some 0xC0] [1000]) (some 0xC0 :: []) (1000 :: []) ∧
      Abstracts { buf := [2, 0x84, 1, 0x72], rem := 1, st := .ok } (looping [2, 0x84, 1, 0x72] 4 1 [some 0xC0] [1000]) :=
  ⟨test_looping_ready .., ⟨by decide, by decide, by decide, by decide, by decide⟩⟩
-- O52: X21 (N = 5), X18 (N = 0), X2, a time-out after three bytes (P5)
theorem test_witness_O52_ok :
    loopRun 1 1000 0 (giving [1, 3, 5, 1, 2, 3, 4, 5, 0xBC, 0x29]) Loop.start =
      .ended { buf := [1, 3, 5, 1, 2, 3, 4, 5, 0xBC, 0x29], rem := 0, st := .ok } 10 := by decide +kernel
theorem test_witness_O52_empty :
    loopRun 1 1000 0 (giving [1, 3, 0, 0x20, 0xF0]) Loop.start =
      .ended { buf := [1, 3, 0, 0x20, 0xF0], rem := 0, st := .ok } 5 := by decide +kernel
theorem test_witness_O52_address :
    loopRun 1 1000 0 (giving [2, 3, 2, 0x12, 0x34, 0xF1, 0x33]) Loop.start =
      .ended { buf := [2, 3, 2, 0x12, 0x34], rem := 2, st := .incorrectSlaveId } 5 := by decide +kernel
theorem test_witness_O52_timeout :
    loopRun 1 100 1000 [(some 1, 1001), (some 3, 1002), (some 2, 1003), (none, 1103)] Loop.start =
      .ended { buf := [1, 3, 2], rem := 2, st := .timeout } 4 := by decide +kernel

/-- The silent line of P5, with answers enough for the bound. -/
def silent : List (PollAnswer × Nat) := (List.range 16).map fun i => (none, 1020 + 20 * i)

-- O53
theorem test_witness_O53 :
    1 ≤ 20 ∧ TimedAnswers 20 0 1000 silent ∧ (100 : Word).toNat + 20 + 0 < 2 ^ 32 ∧
      (100 : Word).toNat / 20 + 11 ≤ silent.length := by
  simp [silent, TimedAnswers, List.range_succ]
theorem test_witness_O53_ended :
    loopRun 1 100 (BitVec.ofNat 32 1000) (sampled silent) Loop.start = .ended { buf := [], rem := 5, st := .timeout } 6 := by
  decide +kernel
-- O54
theorem test_witness_O54 : (ready [offerRdhr, offerRdhr]).phase = .idle := by decide
-- O55: one sample inside POLL_MS = 20, then a byte at the expiry, and none at the expiry
theorem test_witness_O55 :
    (∀ y ∈ [(⟨false, 0, 119⟩ : RxSample)], y.valid = false ∧ (y.ms - (100 : Word)).toNat < 20) ∧
      pollAtPorts 20 100 [⟨false, 0, 119⟩, ⟨true, 7, 120⟩] = some (some 7) ∧
      20 ≤ ((120 : Word) - 100).toNat ∧ pollAtPorts 20 100 [⟨false, 0, 119⟩, ⟨false, 7, 120⟩] = some none := by decide
-- O56: the same with TX_DRAIN_MAX_MS = 50
theorem test_witness_O56 :
    (∀ y ∈ [(⟨false, 149⟩ : DrainSample)], y.idle = false ∧ (y.ms - (100 : Word)).toNat < 50) ∧
      drainAtPorts 50 100 [⟨false, 149⟩, ⟨true, 150⟩] = some .done ∧
      50 ≤ ((150 : Word) - 100).toNat ∧ drainAtPorts 50 100 [⟨false, 149⟩, ⟨false, 150⟩] = some .expired := by decide
-- O57: a frame handed over, one that was not, one from the slave that is no row of the table (X3)
theorem test_witness_O57_sent :
    let s := { State.reset with trace := frameB1.map .tx, env := { Env.empty with wire := [⟨.toSlave, frameB1⟩] } }
    s.env.rst = [] ∧ s.env.wire = ⟨.toSlave, frameB1⟩ :: [] ∧ frameB1 <+: outstanding s ∧
      onNext (step s) (fun t => decide (t.line = [frameB1])) = true := by decide
theorem test_witness_O57_unsent :
    let s := { State.reset with env := { Env.empty with wire := [⟨.toSlave, frameB1⟩] } }
    s.env.rst = [] ∧ s.env.wire = ⟨.toSlave, frameB1⟩ :: [] ∧ ¬ frameB1 <+: outstanding s ∧
      onNext (step s) (fun t => decide (t.line = [] ∧ t.trace = [])) = true := by decide
theorem test_witness_O57_received :
    let s := { State.reset with env := { Env.empty with wire := [⟨.fromSlave, [1, 4, 2, 0x12, 0x34, 0xB4, 0x47]⟩] } }
    s.env.rst = [] ∧ s.env.wire = ⟨.fromSlave, [1, 4, 2, 0x12, 0x34, 0xB4, 0x47]⟩ :: [] ∧
      onNext (step s)
        (fun t => decide (t.env.rx = [some 1, some 4, some 2, some 0x12, some 0x34, some 0xB4, some 0x47])) = true := by
  decide
-- O58: the fourth byte of B1; IDLE sends none
theorem test_witness_O58 :
    onNext (step transmitting) (fun t => decide (txBytes t.trace = [0x00])) = true ∧
      onNext (step State.reset) (fun t => decide (txBytes t.trace = [])) = true := by decide
-- O59: taken at once, and after two cycles
theorem test_witness_O59 :
    let s := fun ready => { inPhase .respond [] with env := { Env.empty with rspReady := ready } }
    (s [true]).phase = .respond ∧ (s [true]).env.rst = [] ∧ (s [true]).env.wire = [] ∧
      (s [true]).env.rspReady = List.replicate 0 false ++ true :: [] ∧
      (s [false, false, true]).env.rspReady = List.replicate 2 false ++ true :: [] := by decide
-- O60: RX_ARM, and RX_DEADLINE past the timeout, each with an older value waiting
theorem test_witness_O60 :
    let s := fun p => { inPhase p [] with env := { Env.empty with now := [1] } }
    (s .rxArm).env.rst = [] ∧ (s .rxArm).env.wire = [] ∧ (s .rxArm).phase = .rxArm ∧
      onNext (step (sampleClock 9 (s .rxArm))) (fun t => decide (t.t.startMs = 9)) = true ∧
      (s .rxDeadline).env.rst = [] ∧ (s .rxDeadline).env.wire = [] ∧ (s .rxDeadline).phase = .rxDeadline ∧
      onNext (step (sampleClock 1001 (s .rxDeadline))) (fun t => decide (t.t.status = .timeout)) = true := by decide

end Sys2Proof.Tests
end

section
/-! PROOFS. What a step fetches and performs (spec 00_scope R5, R8): one equation of `fetch` per source, one of `step` and
`perform` per way they go, and the obligation of the scope that is assembled from them. -/

namespace Sys2Proof.Machine

section Fetch
variable {s : State}

/-- A frame on the wire goes first (log entry 15). -/
theorem fetch_of_wire_cons {f : WireFrame} {rest : List WireFrame} (hw : s.env.wire = f :: rest) :
    fetch s = .adu f.dir f.bytes := by
  unfold fetch
  rw [hw]

theorem fetch_of_idle_cmd {c : CmdPort} {rest : List CmdPort} (hw : s.env.wire = []) (hp : s.phase = .idle)
    (hc : s.env.cmds = c :: rest) : fetch s = .cmd c := by
  unfold fetch
  rw [hw, hp, hc]

theorem fetch_of_no_offer (hw : s.env.wire = []) (h : s.phase ≠ .idle ∨ s.env.cmds = []) :
    fetch s = .phase (phaseCode s.phase) := by
  rcases fetch_cases s with ⟨f, rest, hf, -⟩ | ⟨c, rest, -, hp, hc, -⟩ | ⟨-, -, hfetch⟩
  · simp [hw] at hf
  · simp [hp, hc] at h
  · exact hfetch

end Fetch

/-- With no sample of `rst` waiting, the step is the step of the sequencer. -/
theorem step_of_rst_nil {s : State} (hr : s.env.rst = []) : step s = perform s := by
  unfold step
  rw [hr]

theorem perform_of_decode {s : State} {i : Instr} (hd : decode (fetch s) = .ok i) : perform s = exec i s := by
  unfold perform
  rw [hd]

/-- Settles O35: the step is `exec` of what is decoded, and each source of `fetch` has its own equation; a command and a
phase code decode to their row, so the decoded instruction is that row. -/
theorem stepRunsTheDecodedInstruction : Obligations.StepRunsTheDecodedInstruction := by
  intro s i hr hd
  refine ⟨?_, ?_, ?_, ?_⟩
  · rw [step_of_rst_nil hr, perform_of_decode hd]
  · intro f rest hw
    exact fetch_of_wire_cons hw
  · intro c rest hw hp hc
    rw [fetch_of_idle_cmd hw hp hc] at hd
    exact (Except.ok.inj hd).symm
  · intro hw h
    rw [fetch_of_no_offer hw h, decode_phaseCode] at hd
    exact (Except.ok.inj hd).symm

end Sys2Proof.Machine
end

section
/-! PROOFS. Who writes what (spec 10_state R21 to R33, R42): the ways on of the meanings that Laws/Exec.lean leaves out, the
frame of every row of the opcode table as one equation, and the obligations about writers read off it. -/

namespace Sys2Proof.Machine

section WaysOn
variable {s t : State}

/-- SETUP: held at the port, or accepted as the first since reset. -/
theorem execSetup_next {txen : Bool} {ms : Word} {be sw : Bool} {line : BitVec Config.lcw}
    (h : execSetup txen ms be sw line s = .next t) :
    (s.phase ≠ .idle ∧ t = s) ∨ (s.phase = .idle ∧ acceptSetup txen ms be sw line s = .next t) := by
  unfold execSetup at h
  split at h
  · rename_i hp
    exact .inr ⟨hp, h⟩
  · rename_i hp
    cases h
    exact .inl ⟨hp, rfl⟩

/-- RDHR: held at the port, or accepted. -/
theorem execRdhr_next {slave : Byte} {addr : Half} {count : Byte} (h : execRdhr slave addr count s = .next t) :
    (s.phase ≠ .idle ∧ t = s) ∨ (s.phase = .idle ∧ acceptRdhr slave addr count s = .next t) := by
  unfold execRdhr at h
  split at h
  · rename_i hp
    exact .inr ⟨hp, h⟩
  · rename_i hp
    cases h
    exact .inl ⟨hp, rfl⟩

/-- SETUP_CFG: hold, or take the answer of the transport. -/
theorem execSetupCfg_next (h : execSetupCfg s = .next t) :
    (s.env.configure = [] ∧ t = s.setPhase .setupCfg) ∨
      ∃ a rest, s.env.configure = a :: rest ∧
        t = { s with
          cfg := { s.cfg with configured := decide (a = .ok) }
          rspIsSetup := true
          rspSetupOk := decide (a = .ok)
          env := { s.env with configure := rest }
          trace := s.trace ++ [.configure s.cfg.lineCfg a]
          phase := .respond } := by
  unfold execSetupCfg at h
  split at h
  · rename_i hc
    cases h
    exact .inl ⟨hc, rfl⟩
  · rename_i a rest hc
    cases h
    exact .inr ⟨a, rest, hc, rfl⟩

/-- TX_DRAIN: hold, or go on with the answer. -/
theorem execTxDrain_next (h : execTxDrain s = .next t) :
    (s.env.drain = [] ∧ t = s.setPhase .txDrain) ∨
      ∃ a rest, s.env.drain = a :: rest ∧
        t = { s with
          env := { s.env with drain := rest }, trace := s.trace ++ [.drain a], phase := .txRelease } := by
  unfold execTxDrain at h
  split at h
  · rename_i hd
    cases h
    exact .inl ⟨hd, rfl⟩
  · rename_i a rest hd
    cases h
    exact .inr ⟨a, rest, hd, rfl⟩

/-- RX_ARM: hold, or start the receive loop at the sample of the clock. -/
theorem execRxArm_next (h : execRxArm s = .next t) :
    (s.env.now = [] ∧ t = s.setPhase .rxArm) ∨
      ∃ now rest, s.env.now = now :: rest ∧
        t = { s with
          t := { s.t with startMs := now, cursor := 0, bytesRemaining := BitVec.ofNat 8 hdrLen }
          env := { s.env with now := rest }
          trace := s.trace ++ [.now now]
          phase := .rxPoll } := by
  unfold execRxArm at h
  split at h
  · rename_i hn
    cases h
    exact .inl ⟨hn, rfl⟩
  · rename_i now rest hn
    cases h
    exact .inr ⟨now, rest, hn, rfl⟩

/-- RX_DEADLINE: hold, or check the deadline and test the loop. -/
theorem execRxDeadline_next (h : execRxDeadline s = .next t) :
    (s.env.now = [] ∧ t = s.setPhase .rxDeadline) ∨
      ∃ now rest st, s.env.now = now :: rest ∧ st = deadlineStatus s.t.startMs s.cfg.timeoutMs now s.t.status ∧
        t = { s with
          t := { s.t with status := st }
          env := { s.env with now := rest }
          trace := s.trace ++ [.now now]
          phase := if loopContinues s.t.bytesRemaining st then .rxPoll else .crcCheck } := by
  unfold execRxDeadline at h
  split at h
  · rename_i hn
    cases h
    exact .inl ⟨hn, rfl⟩
  · rename_i now rest hn
    cases h
    exact .inr ⟨now, rest, _, hn, rfl, rfl⟩

end WaysOn

/-- `s` with the fields that the row of `i` may write taken from `t`: the frame of the row. -/
def written (i : Instr) (s t : State) : State :=
  match i with
  | .setup .. => { s with cfg := t.cfg, env := t.env, phase := t.phase }
  | .rdhr .. =>
    { s with
      t := { s.t with
        slaveId := t.t.slaveId, functionCode := t.t.functionCode, regAddr := t.t.regAddr, regCount := t.t.regCount
        status := t.t.status, result := t.t.result }
      rspIsSetup := t.rspIsSetup, env := t.env, phase := t.phase }
  | .idle =>
    { s with
      cfg := t.cfg
      t := { s.t with
        slaveId := t.t.slaveId, functionCode := t.t.functionCode, regAddr := t.t.regAddr, regCount := t.t.regCount
        status := t.t.status, result := t.t.result }
      rspIsSetup := t.rspIsSetup, env := t.env, phase := t.phase }
  | .crc16Update .. | .crc16 _ | .buildReadRequest .. | .decode16 .. | .decode32 .. => { s with fuOut := t.fuOut }
  | .setupCfg =>
    { s with
      cfg := { s.cfg with configured := t.cfg.configured }
      rspIsSetup := t.rspIsSetup, rspSetupOk := t.rspSetupOk, env := t.env, trace := t.trace, phase := t.phase }
  | .build => { s with adu := t.adu, t := { s.t with crc := t.t.crc }, phase := t.phase }
  | .txAssert => { s with t := { s.t with txIdx := t.t.txIdx }, txEn := t.txEn, trace := t.trace, phase := t.phase }
  | .txWrite => { s with t := { s.t with txIdx := t.t.txIdx }, env := t.env, trace := t.trace, phase := t.phase }
  | .txDrain | .respond => { s with env := t.env, trace := t.trace, phase := t.phase }
  | .txRelease => { s with txEn := t.txEn, trace := t.trace, phase := t.phase }
  | .rxArm =>
    { s with
      t := { s.t with startMs := t.t.startMs, cursor := t.t.cursor, bytesRemaining := t.t.bytesRemaining }
      env := t.env, trace := t.trace, phase := t.phase }
  | .rxPoll =>
    { s with
      adu := t.adu, t := { s.t with cursor := t.t.cursor, bytesRemaining := t.t.bytesRemaining }
      fault := t.fault, env := t.env, trace := t.trace, phase := t.phase }
  | .rxHeader =>
    { s with t := { s.t with status := t.t.status, bytesRemaining := t.t.bytesRemaining }, phase := t.phase }
  | .rxDeadline => { s with t := { s.t with status := t.t.status }, env := t.env, trace := t.trace, phase := t.phase }
  | .crcCheck => { s with t := { s.t with status := t.t.status, crc := t.t.crc }, phase := t.phase }
  | .decode => { s with t := { s.t with result := t.t.result }, draws := t.draws, phase := t.phase }
  | .fault => { s with fault := t.fault, phase := t.phase }
  | .reqRdhr .. => { s with env := t.env, line := t.line }
  | .rspNormal .. | .rspException .. => { s with env := t.env }

/-- The frame of every row: a row that goes on writes only the fields `written` names. -/
theorem exec_frame {i : Instr} {s t : State} (h : exec i s = .next t) : t = written i s t := by
  cases i with
  | setup =>
    obtain ⟨-, rfl⟩ | ⟨-, ha⟩ := execSetup_next h
    · rfl
    · obtain ⟨-, rfl⟩ := acceptSetup_next ha
      rfl
  | rdhr =>
    obtain ⟨-, rfl⟩ | ⟨-, ha⟩ := execRdhr_next h
    · rfl
    · cases ha
      rfl
  | idle =>
    obtain ⟨-, rfl⟩ | ⟨c, rest, -, ⟨-, ha⟩ | ⟨-, ha⟩⟩ := execIdle_next h
    · rfl
    · cases ha
      rfl
    · obtain ⟨-, rfl⟩ := acceptSetup_next ha
      rfl
  | setupCfg => obtain ⟨-, rfl⟩ | ⟨a, rest, -, rfl⟩ := execSetupCfg_next h <;> rfl
  | txAssert | txRelease =>
    cases h
    unfold driveIfPresent
    split <;> rfl
  | txWrite => obtain ⟨-, rfl⟩ | ⟨rest, b, -, -, -, rfl⟩ := execTxWrite_next h <;> rfl
  | txDrain => obtain ⟨-, rfl⟩ | ⟨a, rest, -, rfl⟩ := execTxDrain_next h <;> rfl
  | rxArm => obtain ⟨-, rfl⟩ | ⟨now, rest, -, rfl⟩ := execRxArm_next h <;> rfl
  | rxPoll =>
    obtain ⟨-, rfl⟩ | ⟨rest, -, rfl⟩ | ⟨b, rest, -, hb⟩ := execRxPoll_next h
    · rfl
    · rfl
    · obtain ⟨-, rfl⟩ | ⟨-, rfl⟩ := storeByte_next hb <;> rfl
  | rxHeader => obtain ⟨-, b0, b1, b2, -, -, -, rfl⟩ | ⟨-, rfl⟩ := execRxHeader_next h <;> rfl
  | rxDeadline => obtain ⟨-, rfl⟩ | ⟨now, rest, st, -, -, rfl⟩ := execRxDeadline_next h <;> rfl
  | crcCheck => obtain ⟨-, -, -, bytes, -, rfl⟩ | ⟨-, rfl⟩ := execCrcCheck_next h <;> rfl
  | decode =>
    obtain ⟨v, n, rfl, -⟩ := execDecode_next h
    rfl
  | respond => obtain ⟨-, rfl⟩ | ⟨rest, -, rfl⟩ := execRespond_next h <;> rfl
  | crc16Update | crc16 | buildReadRequest | decode16 | decode32 | build | fault | rspNormal | rspException =>
    cases h
    rfl
  | reqRdhr =>
    cases h
    rw [deliver_toSlave]
    rfl


/-- SETUP writes no configuration when one was accepted since reset. -/
theorem setup_cfg_of_setupSeen {txen : Bool} {ms : Word} {be sw : Bool} {line : BitVec Config.lcw} {s t : State}
    (h : exec (.setup txen ms be sw line) s = .next t) (hs : s.cfg.setupSeen = true) : t.cfg = s.cfg := by
  obtain ⟨-, rfl⟩ | ⟨-, ha⟩ := execSetup_next h
  · rfl
  · obtain ⟨hn, -⟩ := acceptSetup_next ha
    simp [hs] at hn

/-- IDLE writes the configuration only as the acceptance of the first SETUP since reset. -/
theorem idle_cfg {s t : State} (h : exec .idle s = .next t) :
    t.cfg = s.cfg ∨ (s.cfg.setupSeen = false ∧ ∃ c rest, s.env.cmds = c :: rest ∧ c.op ≠ 1) := by
  obtain ⟨-, rfl⟩ | ⟨c, rest, hc, ⟨-, ha⟩ | ⟨ho, ha⟩⟩ := execIdle_next h
  · exact .inl rfl
  · cases ha
    exact .inl rfl
  · obtain ⟨hn, -⟩ := acceptSetup_next ha
    exact .inr ⟨hn, c, rest, hc, ho⟩

/-- Settles O42: SETUP, IDLE and SETUP_CFG by what they accept, every other row by its frame. -/
theorem onlySetupWritesTheConfiguration : Obligations.OnlySetupWritesTheConfiguration := by
  intro i s t h
  have hf : t.cfg = (written i s t).cfg := congrArg State.cfg (exec_frame h)
  cases i with
  | setup a b c d e =>
    refine ⟨.inl (.inr ⟨a, b, c, d, e, rfl⟩), nofun, fun hs => ?_⟩
    rw [setup_cfg_of_setupSeen h hs]
  | idle =>
    refine ⟨.inl (.inl rfl), fun _ c rest hc ho => ?_, fun hs => ?_⟩
    · obtain heq | ⟨-, c', rest', hc', ho'⟩ := idle_cfg h
      · exact heq
      · rw [hc] at hc'
        cases hc'
        exact absurd ho ho'
    · obtain heq | ⟨hn, -⟩ := idle_cfg h
      · rw [heq]
      · simp [hs] at hn
  | setupCfg => exact ⟨.inr (.inl ⟨rfl, hf⟩), nofun, fun _ => hf⟩
  | _ =>
    have hf : t.cfg = s.cfg := hf
    exact ⟨.inr (.inr hf), nofun, fun _ => by rw [hf]⟩

/-- Only TX_ASSERT and TX_RELEASE, with a configured line, write `tx_en`. -/
theorem exec_txEn {i : Instr} {s t : State} (h : exec i s = .next t) :
    (i = .txAssert ∧ s.cfg.txenPresent = true ∧ t.txEn = true) ∨
      (i = .txRelease ∧ s.cfg.txenPresent = true ∧ t.txEn = false) ∨ t.txEn = s.txEn := by
  have hf : t.txEn = (written i s t).txEn := congrArg State.txEn (exec_frame h)
  cases i with
  | txAssert =>
    cases h
    by_cases hp : s.cfg.txenPresent = true <;> simp [hp]
  | txRelease =>
    cases h
    by_cases hp : s.cfg.txenPresent = true <;> simp [hp]
  | _ => exact .inr (.inr hf)

/-- Only RX_POLL, at an overrun, and FAULT write `fault`. -/
theorem exec_fault {i : Instr} {s t : State} (h : exec i s = .next t) :
    ((i = .rxPoll ∨ i = .fault) ∧ t.fault = true ∧ t.phase = .fault) ∨ t.fault = s.fault := by
  have hf : t.fault = (written i s t).fault := congrArg State.fault (exec_frame h)
  cases i with
  | fault =>
    cases h
    exact .inl ⟨.inr rfl, rfl, rfl⟩
  | rxPoll =>
    obtain ⟨-, rfl⟩ | ⟨rest, -, rfl⟩ | ⟨b, rest, -, hb⟩ := execRxPoll_next h
    · exact .inr rfl
    · exact .inr rfl
    · obtain ⟨-, rfl⟩ | ⟨-, rfl⟩ := storeByte_next hb
      · exact .inl ⟨.inl rfl, rfl, rfl⟩
      · exact .inr rfl
  | _ => exact .inr hf

/-- Settles O43, one output at a time. -/
theorem writersOfTheOutputs : Obligations.WritersOfTheOutputs :=
  fun _ _ _ h => ⟨exec_txEn h, exec_fault h⟩

/-- Settles O45: each row by its frame, which names the registers it may write. -/
theorem writersOfTheTransactionRegisters : Obligations.WritersOfTheTransactionRegisters := by
  intro i s t h
  have hf : t.t = (written i s t).t := congrArg State.t (exec_frame h)
  cases i <;> rw [hf] <;> simp [written]

end Sys2Proof.Machine
end

section
/-! PROOFS. The two ways of the sequencer's step (spec 00_scope R5, R8): the frame at the head of the wire crosses, or the
row of the phase is performed; an offered command in IDLE is the row of IDLE. -/

namespace Sys2Proof.Machine

section Frames
variable {s : State} {bytes : List Byte} {i : Instr}

/-- The bits of a half put together from two bytes. -/
theorem getLsbD_halfOfBytes (hi lo : Byte) (k : Nat) :
    (hi ++ lo : Half).getLsbD k = if k < 8 then lo.getLsbD k else hi.getLsbD (k - 8) := BitVec.getLsbD_append

@[simp] theorem hi8_append (hi lo : Byte) : hi8 (hi ++ lo) = hi := by
  apply BitVec.eq_of_getLsbD_eq
  intro k hk
  simp [hi8, getLsbD_halfOfBytes, hk]

@[simp] theorem lo8_append (hi lo : Byte) : lo8 (hi ++ lo) = lo := by
  apply BitVec.eq_of_getLsbD_eq
  intro k hk
  simp [lo8, getLsbD_halfOfBytes, hk]

/-- A byte with bit 7 set is that bit and its low seven bits. -/
theorem append_setWidth_of_bit7 {b : Byte} (h : b.getLsbD 7 = true) : 1#1 ++ b.setWidth 7 = b := by
  revert h b
  decide

/-- A request that decodes is performed as the crossing of its bytes. -/
theorem exec_of_decodeRequest (h : decodeRequest bytes = .ok i) : exec i s = .next (deliver .toSlave bytes s) := by
  unfold decodeRequest at h
  split at h
  · split at h
    · rename_i hb
      obtain ⟨rfl, rfl⟩ := hb
      cases h
      simp [exec, execReqRdhr, requestBytes]
    · cases h
  · cases h

/-- A response that decodes is performed as the arrival of its bytes. -/
theorem exec_of_decodeResponse (h : decodeResponse bytes = .ok i) : exec i s = .next (deliver .fromSlave bytes s) := by
  unfold decodeResponse at h
  split at h
  · split at h
    · rename_i hb
      split at h
      · cases h
        simp [exec, execRspException, exceptionBytes, append_setWidth_of_bit7 hb]
      · cases h
    · split at h
      · rename_i hf
        subst hf
        split at h
        · rename_i c rest _ crcLo crcHi hd
          cases h
          simp [exec, execRspNormal, normalBytes, ← hd]
        · cases h
      · cases h
  · cases h

/-- With a frame on the wire the step is its crossing, whether its bytes are a row of the table or not. -/
theorem perform_of_wire_cons {f : WireFrame} {rest : List WireFrame} (hw : s.env.wire = f :: rest) :
    perform s = .next (deliver f.dir f.bytes s) := by
  obtain ⟨dir, bytes⟩ := f
  unfold perform
  rw [fetch_of_wire_cons hw]
  split
  · rename_i i hd
    cases dir with
    | toSlave => exact exec_of_decodeRequest hd
    | fromSlave => exact exec_of_decodeResponse hd
  · rw [undecoded, hw]

end Frames

/-- In IDLE the offered command is performed as the row of IDLE performs it. -/
theorem exec_decodeCmd_of_idle {s : State} {c : CmdPort} {rest : List CmdPort} (hp : s.phase = .idle)
    (hc : s.env.cmds = c :: rest) : exec (decodeCmd c) s = exec .idle s := by
  show exec (decodeCmd c) s = execIdle s
  unfold execIdle decodeCmd
  simp only [hc, setPhase_self s _ hp]
  split
  · exact if_pos hp
  · exact if_pos hp

/-- With no frame on the wire the step is the row of the phase. -/
theorem perform_of_wire_nil {s : State} (hw : s.env.wire = []) : perform s = exec (phaseInstr s.phase) s := by
  rcases fetch_cases s with ⟨f, rest, hf, -⟩ | ⟨c, rest, -, hp, hc, hfetch⟩ | ⟨-, h, -⟩
  · simp [hw] at hf
  · rw [hp, phaseInstr, ← exec_decodeCmd_of_idle hp hc]
    exact perform_of_decode (by rw [hfetch, decode])
  · exact perform_phase hw h

/-- With no sample of `rst` and no frame waiting, the step is the row of the phase. -/
theorem step_of_phase {s : State} {p : Phase} (hr : s.env.rst = []) (hw : s.env.wire = []) (hp : s.phase = p) :
    step s = exec (phaseInstr p) s := by rw [step_of_rst_nil hr, perform_of_wire_nil hw, hp]

end Sys2Proof.Machine
end

section
/-! PROOFS. The invariant (spec 10_state R26 to R28, R33, R42; 20_memory R71; 42 R130; 43 R150; 60 R179): it holds at reset,
every phase keeps it, a frame on the wire and reset keep it, and so every step does. -/

namespace Sys2Proof.Machine

/-- Settles O38: nothing is written, transmitted or configured at reset, and IDLE relies on nothing. -/
theorem invHoldsAtReset : Obligations.InvHoldsAtReset :=
  ⟨aduWf_reset, rfl, rfl, List.nil_prefix, nofun, trivial⟩

/-! ### The counters, the line and the status -/

theorem toNat_index_succ {c : BitVec 4} (h : c.toNat + 1 < 16) : (c + 1).toNat = c.toNat + 1 := by bv_omega

theorem toNat_byte_pred {r : Byte} (h : 0 < r.toNat) : (r - 1).toNat = r.toNat - 1 := by bv_omega

/-- Driving the line of a half-duplex link changes `tx_en` and the trace only. -/
theorem driveIfPresent_eq (v : Bool) (s : State) : driveIfPresent v s =
    { s with
      txEn := if s.cfg.txenPresent then v else s.txEn
      trace := if s.cfg.txenPresent then s.trace ++ [.txEn v] else s.trace } := by
  unfold driveIfPresent
  split <;> rfl

/-- The three checks leave OK only when none of them holds, else one of the three failures of the header. -/
theorem headerStatus_cases (slave fc b0 b1 : Byte) :
    (headerStatus slave fc b0 b1 .ok = .ok ∧ b0 = slave ∧ b1 &&& 0x7F = fc ∧ b1 &&& 0x80 = 0) ∨
      headerStatus slave fc b0 b1 .ok = .incorrectSlaveId ∨ headerStatus slave fc b0 b1 .ok = .incorrectFunction ∨
      headerStatus slave fc b0 b1 .ok = .modbusException := by
  unfold headerStatus exceptionCheck functionCheck addressCheck
  split
  · exact .inr (.inr (.inr rfl))
  · rename_i h2
    split
    · exact .inr (.inr (.inl rfl))
    · rename_i h1
      split
      · exact .inr (.inl rfl)
      · rename_i h0
        exact .inl ⟨rfl, not_not.1 h0, not_not.1 h1, not_not.1 h2⟩

/-- The deadline check leaves a time-out or the status as it was. -/
theorem deadlineStatus_cases (start timeout now : Word) (st : Status) :
    deadlineStatus start timeout now st = .timeout ∨ deadlineStatus start timeout now st = st := by
  unfold deadlineStatus
  split
  · exact .inl rfl
  · exact .inr rfl

/-- The loop test (R145). -/
theorem loopContinues_iff {r : Byte} {st : Status} : loopContinues r st = true ↔ 0 < r.toNat ∧ st = .ok := by
  simp [loopContinues, BitVec.lt_def]

/-- Over OK with five bytes or more, the validation keeps OK only when the trailer matches. -/
theorem crcStatus_cases {bytes : List Byte} (hlen : hdrLen ≤ bytes.length) :
    (trailerMatches bytes = true ∧ crcStatus bytes .ok = .ok) ∨
      (trailerMatches bytes = false ∧ crcStatus bytes .ok = .crcError) := by
  cases hm : trailerMatches bytes <;> simp [crcStatus, hm, hlen]

/-! ### What the phases rely on, read off the buffer -/

section Buffer
variable {s t : State}

theorem byteAt_of_aduRead {i : Nat} {b : Byte} (h : aduRead s.adu i = some b) : byteAt s i = b := by simp [byteAt, h]

/-- The bytes that a read of `adu[0 .. cursor-1]` answers are the received ones. -/
theorem eq_received_of_aduRead {bytes : List Byte}
    (h : (List.range s.t.cursor.toNat).map (aduRead s.adu) = bytes.map some) : bytes = received s := by
  calc bytes = (bytes.map some).map (·.getD 0) := by simp
    _ = received s := by rw [← h, List.map_map]; rfl

/-- A store at another index leaves the byte. -/
theorem byteAt_store {n i : Nat} {b : Byte} (hadu : t.adu = aduWrite s.adu n b) (hi : i ≠ n) :
    byteAt t i = byteAt s i := by rw [byteAt, byteAt, hadu, aduRead_aduWrite_ne _ _ hi]

theorem bytesPresent_store {n : Nat} {b : Byte} (h : BytesPresent s n) (hadu : t.adu = aduWrite s.adu n b) :
    BytesPresent t (n + 1) := by
  intro i hi
  rw [hadu, aduRead_aduWrite]
  split
  · rfl
  · exact h i (by omega)

@[simp] theorem length_buildReadRequest (slave : Byte) (addr : Half) (count : Byte) :
    (buildReadRequest slave addr count).length = 8 := rfl

/-- BUILD leaves the request in the buffer. -/
theorem requestStaged_build (m : List Host.Cell)
    (hadu : t.adu = aduWriteList m 0 (buildReadRequest t.t.slaveId t.t.regAddr t.t.regCount)) : RequestStaged t := by
  have hread : (List.range 8).map (aduRead t.adu) =
      (List.range 8).map fun i => (buildReadRequest t.t.slaveId t.t.regAddr t.t.regCount)[i]? := by
    refine List.map_congr_left fun i hi => ?_
    rw [hadu, aduRead_staged, if_pos (List.mem_range.1 hi)]
  rw [RequestStaged, hread]
  rfl

end Buffer

/-! ### Moves that keep everything but the phase's own part -/

section Moves
variable {s t : State}

/-- A move that writes neither configuration nor output and stays on its side of FAULT and of the transmitting phases
keeps the invariant when what the new phase relies on holds. -/
theorem Inv.move {p : Phase} (h : Inv s) (hp : s.phase = p) (hphase : PhaseInv t) (hadu : AduWf t.adu)
    (htrace : txBytes s.trace <+: txBytes t.trace) (hcfg : t.cfg = s.cfg := by rfl)
    (hout : t.fault = s.fault ∧ t.txEn = s.txEn := by exact ⟨rfl, rfl⟩) (hline : t.line = s.line := by rfl)
    (hfault : decide (t.phase = .fault) = decide (p = .fault) := by rfl)
    (htransmits : transmits t.phase = transmits p := by rfl) : Inv t := by
  obtain ⟨hf, ht⟩ := hout
  exact ⟨hadu, by rw [hf, hfault, h.fault, hp], by rw [ht, hcfg, htransmits, h.txEn, hp],
    by rw [hline]; exact h.line.trans htrace, by rw [hcfg]; exact h.configured, hphase⟩

/-- The invariant does not look at the inputs to come. -/
theorem Inv.withEnv (h : Inv s) (env : Env) : Inv { s with env := env } :=
  ⟨h.adu, h.fault, h.txEn, h.line, h.configured, h.phase⟩

/-- A frame on the wire keeps the invariant: only bytes the block handed over cross to the slave (R72). -/
theorem Inv.deliver (h : Inv s) (dir : Direction) (bytes : List Byte) : Inv (deliver dir bytes s) := by
  cases dir with
  | fromSlave => exact h.withEnv _
  | toSlave =>
    rw [deliver_toSlave]
    refine ⟨h.adu, h.fault, h.txEn, ?_, h.configured, h.phase⟩
    dsimp only
    split
    · rename_i hpre
      obtain ⟨rest, hrest⟩ := List.isPrefixOf_iff_prefix.1 hpre
      obtain ⟨out, hout⟩ := h.line
      refine ⟨rest, ?_⟩
      rw [outstanding, ← hout, List.drop_left] at hrest
      simp [← hout, ← hrest]
    · exact h.line

/-- Reset gives the invariant back; the model's own records keep their order (R200). -/
theorem Inv.resetBlock (h : Inv s) : Inv (resetBlock s) := by
  refine ⟨aduWf_reset, rfl, rfl, ?_, nofun, trivial⟩
  have htrace : txBytes (Machine.resetBlock s).trace = txBytes s.trace := by
    unfold Machine.resetBlock
    dsimp only
    split <;> simp
  rw [htrace]
  exact h.line

end Moves

/-! ### Every phase keeps the invariant -/

section Phases
variable {s t : State}

theorem Inv.fault_eq_false {p : Phase} (h : Inv s) (hp : s.phase = p) (hne : p ≠ .fault := by decide) :
    s.fault = false := by simp [h.fault, hp, hne]

theorem Inv.txEn_at {p : Phase} (h : Inv s) (hp : s.phase = p) : s.txEn = (s.cfg.txenPresent && transmits p) := by
  rw [h.txEn, hp]

/-- A held phase keeps the invariant. -/
theorem Inv.hold {p : Phase} (h : Inv s) (hp : s.phase = p) : Inv (s.setPhase p) := by rwa [setPhase_self s p hp]

/-- What the phase `p` relies on holds in a state of the invariant in `p`. -/
theorem Inv.relies {p : Phase} (h : Inv s) (hp : s.phase = p) : PhaseInv (s.setPhase p) := (h.hold hp).phase

theorem Inv.exec_idle (h : Inv s) (hp : s.phase = .idle) (he : exec .idle s = .next t) : Inv t := by
  obtain ⟨-, rfl⟩ | ⟨c, rest, -, ⟨-, ha⟩ | ⟨-, ha⟩⟩ := execIdle_next he
  · exact h.hold hp
  · cases hc : s.cfg.configured with
    | true =>
      rw [acceptRdhr_configured _ _ _ (by exact hc)] at ha
      cases ha
      exact h.move hp ⟨⟨hc, rfl, rfl, rfl⟩, rfl⟩ h.adu List.prefix_rfl
    | false =>
      rw [acceptRdhr_unconfigured _ _ _ (by exact hc)] at ha
      cases ha
      exact h.move hp ⟨fun _ => rfl, fun _ => hc, fun _ => rfl⟩ h.adu List.prefix_rfl
  · obtain ⟨-, rfl⟩ := acceptSetup_next ha
    have htx : s.txEn = false := by simpa [transmits] using h.txEn_at hp
    refine ⟨h.adu, ?_, ?_, h.line, fun _ => rfl, rfl⟩
    · exact h.fault_eq_false hp
    · exact htx.trans (by simp [transmits])

theorem Inv.exec_setupCfg (h : Inv s) (hp : s.phase = .setupCfg) (he : exec .setupCfg s = .next t) : Inv t := by
  have hseen : s.cfg.setupSeen = true := h.relies hp
  obtain ⟨-, rfl⟩ | ⟨a, rest, -, rfl⟩ := execSetupCfg_next he
  · exact h.hold hp
  · have htx : s.txEn = false := by simpa [transmits] using h.txEn_at hp
    refine ⟨h.adu, ?_, ?_, ?_, fun _ => hseen, hseen, rfl⟩
    · exact h.fault_eq_false hp
    · exact htx.trans (by simp [transmits])
    · simpa using h.line

theorem Inv.exec_build (h : Inv s) (hp : s.phase = .build) (he : exec .build s = .next t) : Inv t := by
  obtain ⟨htxn, hok⟩ := h.relies hp
  cases he
  exact h.move hp ⟨htxn, hok, requestStaged_build s.adu rfl⟩ (aduWf_aduWriteList h.adu (by simp [aduCap]))
    List.prefix_rfl

theorem Inv.exec_txAssert (h : Inv s) (hp : s.phase = .txAssert) (he : exec .txAssert s = .next t) : Inv t := by
  obtain ⟨htxn, hok, hstaged⟩ := h.relies hp
  have htx : s.txEn = false := by simpa [transmits] using h.txEn_at hp
  rw [exec, execTxAssert, driveIfPresent_eq] at he
  cases he
  refine ⟨h.adu, h.fault_eq_false hp, ?_, ?_, h.configured, htxn, hok, hstaged, Nat.zero_lt_succ 7⟩
  · cases hc : s.cfg.txenPresent <;> simp [htx, transmits]
  · dsimp only
    split
    · simpa using h.line
    · exact h.line

theorem Inv.exec_txWrite (h : Inv s) (hp : s.phase = .txWrite) (he : exec .txWrite s = .next t) : Inv t := by
  obtain ⟨htxn, hok, hstaged, hidx⟩ : InTransaction s ∧ s.t.status = .ok ∧ RequestStaged s ∧ s.t.txIdx.toNat < 8 :=
    h.relies hp
  obtain ⟨-, rfl⟩ | ⟨rest, b, -, -, -, rfl⟩ := execTxWrite_next he
  · exact (h.hold hp).withEnv _
  · have hsucc : (s.t.txIdx + 1).toNat = s.t.txIdx.toNat + 1 := toNat_index_succ (by omega)
    have htrace : txBytes s.trace <+: txBytes (s.trace ++ [.tx b]) := by simp
    by_cases hlast : s.t.txIdx + 1 = 8
    · rw [if_pos hlast]
      exact h.move hp ⟨htxn, hok, hstaged, congrArg BitVec.toNat hlast⟩ h.adu htrace
    · rw [if_neg hlast]
      have hne : (s.t.txIdx + 1).toNat ≠ 8 := fun h8 => hlast (BitVec.eq_of_toNat_eq h8)
      have hlt : (s.t.txIdx + 1).toNat < 8 := by omega
      exact h.move hp ⟨htxn, hok, hstaged, hlt⟩ h.adu htrace

theorem Inv.exec_txDrain (h : Inv s) (hp : s.phase = .txDrain) (he : exec .txDrain s = .next t) : Inv t := by
  obtain ⟨-, rfl⟩ | ⟨a, rest, -, rfl⟩ := execTxDrain_next he
  · exact h.hold hp
  · exact h.move hp (h.relies hp) h.adu (by simp)

theorem Inv.exec_txRelease (h : Inv s) (hp : s.phase = .txRelease) (he : exec .txRelease s = .next t) : Inv t := by
  have htx : s.txEn = s.cfg.txenPresent := by simpa [transmits] using h.txEn_at hp
  rw [exec, execTxRelease, driveIfPresent_eq] at he
  cases he
  refine ⟨h.adu, h.fault_eq_false hp, ?_, ?_, h.configured, h.relies hp⟩
  · cases hc : s.cfg.txenPresent <;> simp [hc, htx, transmits]
  · simp only [setPhase_line, setPhase_trace]
    split
    · simpa using h.line
    · exact h.line

theorem Inv.exec_rxArm (h : Inv s) (hp : s.phase = .rxArm) (he : exec .rxArm s = .next t) : Inv t := by
  obtain ⟨htxn, hok, -⟩ := h.relies hp
  obtain ⟨-, rfl⟩ | ⟨now, rest, -, rfl⟩ := execRxArm_next he
  · exact h.hold hp
  · have hnone : BytesPresent s 0 := fun i hi => absurd hi (Nat.not_lt_zero i)
    exact h.move hp ⟨htxn, hok, hnone, Nat.zero_lt_succ 4, .inl ⟨Nat.zero_lt_succ 4, rfl⟩⟩ h.adu (by simp)

/-- A byte stored below the end of the buffer: what RX_HEADER relies on. -/
theorem phaseInv_store {b : Byte} (h : Inv s) (hp : s.phase = .rxPoll) (hroom : s.t.cursor.toNat < 10)
    (hphase : t.phase = .rxHeader) (hcfg : t.cfg = s.cfg) (hsetup : t.rspIsSetup = s.rspIsSetup)
    (hadu : t.adu = aduWrite s.adu s.t.cursor.toNat b)
    (ht : t.t = { s.t with cursor := s.t.cursor + 1, bytesRemaining := s.t.bytesRemaining - 1 }) : PhaseInv t := by
  obtain ⟨htxn, hok, hbytes, hrem, hcount⟩ : InTransaction s ∧ s.t.status = .ok ∧ BytesPresent s s.t.cursor.toNat ∧
    0 < s.t.bytesRemaining.toNat ∧ (HeaderPending s ∨ (PayloadPending s ∧ HeaderOk s)) := h.relies hp
  have hcursor : t.t.cursor.toNat = s.t.cursor.toNat + 1 := by rw [ht]; exact toNat_index_succ (by omega)
  have hleft : t.t.bytesRemaining.toNat = s.t.bytesRemaining.toNat - 1 := by rw [ht]; exact toNat_byte_pred hrem
  simp only [PhaseInv, hphase]
  refine ⟨?_, by rw [ht]; exact hok, hcursor ▸ bytesPresent_store hbytes hadu, ?_⟩
  · rw [InTransaction, hcfg, hsetup, ht]
    exact htxn
  · rcases hcount with ⟨hlt, hsum⟩ | ⟨⟨hge, -, hsum⟩, hheader⟩
    · rcases Nat.lt_or_ge t.t.cursor.toNat 5 with hlt' | hge'
      · exact .inl ⟨hlt', by omega⟩
      · exact .inr (.inl (by omega))
    · have hbyte (i : Nat) (hi : i < 5) : byteAt t i = byteAt s i := byteAt_store hadu (by omega)
      have hN : declaredN t = declaredN s := by rw [declaredN, declaredN, hbyte 2 (by decide)]
      refine .inr (.inr ⟨⟨by omega, by omega, by omega⟩, ?_⟩)
      rw [HeaderOk, hbyte 0 (by decide), hbyte 1 (by decide), ht]
      exact hheader

theorem Inv.exec_rxPoll (h : Inv s) (hp : s.phase = .rxPoll) (he : exec .rxPoll s = .next t) : Inv t := by
  obtain ⟨htxn, hok, hbytes, hrem, hcount⟩ : InTransaction s ∧ s.t.status = .ok ∧ BytesPresent s s.t.cursor.toNat ∧
    0 < s.t.bytesRemaining.toNat ∧ (HeaderPending s ∨ (PayloadPending s ∧ HeaderOk s)) := h.relies hp
  obtain ⟨-, rfl⟩ | ⟨rest, -, rfl⟩ | ⟨b, rest, -, hb⟩ := execRxPoll_next he
  · exact h.hold hp
  · exact h.move hp ⟨htxn, hok, hbytes, hcount.imp_right .inr⟩ h.adu (by simp)
  · obtain ⟨hfull, rfl⟩ | ⟨hroom, rfl⟩ := storeByte_next hb
    · have hten : s.t.cursor.toNat = 10 := congrArg BitVec.toNat hfull
      have hlong : 5 < declaredN s := by
        rcases hcount with ⟨hlt, -⟩ | ⟨⟨-, -, hsum⟩, -⟩ <;> omega
      refine ⟨h.adu, rfl, h.txEn.trans ?_, ?_, h.configured, htxn, hten, hlong⟩
      · simp [hp, transmits]
      · simpa using h.line
    · exact h.move hp (phaseInv_store h hp hroom rfl rfl rfl rfl rfl) (aduWf_aduWrite b h.adu hroom) (by simp)

theorem Inv.exec_rxHeader (h : Inv s) (hp : s.phase = .rxHeader) (he : exec .rxHeader s = .next t) : Inv t := by
  obtain ⟨htxn, hok, hbytes, hcount⟩ : InTransaction s ∧ s.t.status = .ok ∧ BytesPresent s s.t.cursor.toNat ∧
    (HeaderPending s ∨ s.t.cursor.toNat = 5 ∨ (PayloadPending s ∧ HeaderOk s)) := h.relies hp
  obtain ⟨hfive, b0, b1, b2, h0, h1, h2, rfl⟩ | ⟨hnot, rfl⟩ := execRxHeader_next he
  · have hfive : s.t.cursor.toNat = 5 := congrArg BitVec.toNat hfive
    have hsum : s.t.cursor.toNat + (declaredCount b2).toNat = 5 + declaredN s := by
      rw [declaredN, byteAt_of_aduRead h2, hfive]
    refine h.move hp ⟨htxn, hbytes, .inr ?_⟩ h.adu List.prefix_rfl
    have hpayload : 5 ≤ s.t.cursor.toNat ∧ s.t.cursor.toNat ≤ 10 ∧
      s.t.cursor.toNat + (declaredCount b2).toNat = 5 + declaredN s := ⟨by omega, by omega, hsum⟩
    simp only [hok]
    rcases headerStatus_cases s.t.slaveId s.t.functionCode b0 b1 with ⟨hst, hslave, hfunction, hexception⟩ | hfail
    · have hheader : HeaderOk s := by
        rw [HeaderOk, byteAt_of_aduRead h0, byteAt_of_aduRead h1]
        exact ⟨hslave, hfunction, hexception⟩
      exact .inl ⟨hpayload, hheader, hst⟩
    · exact .inr ⟨hpayload, hfive, hfail⟩
  · have hnot : s.t.cursor.toNat ≠ 5 := fun h5 => hnot (BitVec.eq_of_toNat_eq h5)
    refine h.move hp ⟨htxn, hbytes, ?_⟩ h.adu List.prefix_rfl
    rcases hcount with hpending | hfive | ⟨hpayload, hheader⟩
    · exact .inl ⟨hpending, hok⟩
    · exact absurd hfive hnot
    · exact .inr (.inl ⟨hpayload, hheader, hok⟩)

theorem Inv.exec_rxDeadline (h : Inv s) (hp : s.phase = .rxDeadline) (he : exec .rxDeadline s = .next t) : Inv t := by
  obtain ⟨htxn, hbytes, hcount⟩ : InTransaction s ∧ BytesPresent s s.t.cursor.toNat ∧
    ((HeaderPending s ∧ s.t.status = .ok) ∨ (PayloadPending s ∧ HeaderOk s ∧ s.t.status = .ok) ∨
      (PayloadPending s ∧ s.t.cursor.toNat = 5 ∧
        (s.t.status = .incorrectSlaveId ∨ s.t.status = .incorrectFunction ∨ s.t.status = .modbusException))) :=
    h.relies hp
  obtain ⟨-, rfl⟩ | ⟨now, rest, st, -, hst, rfl⟩ := execRxDeadline_next he
  · exact h.hold hp
  · have hst : st = .timeout ∨ st = s.t.status := hst ▸ deadlineStatus_cases _ _ _ _
    by_cases hloop : loopContinues s.t.bytesRemaining st = true
    · obtain ⟨hrem, rfl⟩ := loopContinues_iff.1 hloop
      simp only [hloop, if_true]
      refine h.move hp ⟨htxn, rfl, hbytes, hrem, ?_⟩ h.adu (by simp)
      rcases hcount with ⟨hpending, -⟩ | ⟨hpayload, hheader, -⟩ | ⟨-, -, hfail⟩
      · exact .inl hpending
      · exact .inr ⟨hpayload, hheader⟩
      · rcases hst with hst | hst
        · nomatch hst
        · simp [← hst] at hfail
    · have hend : ¬ (0 < s.t.bytesRemaining.toNat ∧ st = .ok) := fun hc => hloop (loopContinues_iff.2 hc)
      simp only [hloop]
      refine h.move hp ⟨htxn, hbytes, ?_⟩ h.adu (by simp)
      rcases hst with rfl | rfl
      · have hten : s.t.cursor.toNat ≤ 10 := by
          rcases hcount with ⟨⟨hlt, -⟩, -⟩ | ⟨⟨-, hle, -⟩, -⟩ | ⟨⟨-, hle, -⟩, -⟩ <;> omega
        exact .inr (.inr ⟨rfl, hten⟩)
      · rcases hcount with ⟨⟨hlt, hsum⟩, hok⟩ | ⟨⟨-, hle, hsum⟩, hheader, hok⟩ | ⟨-, hfive, hfail⟩
        · exact absurd ⟨by omega, hok⟩ hend
        · have hnone : ¬ 0 < s.t.bytesRemaining.toNat := fun hc => hend ⟨hc, hok⟩
          have hall : s.t.cursor.toNat = 5 + declaredN s := by omega
          exact .inl ⟨hok, hheader, hall, hle⟩
        · exact .inr (.inl ⟨hfive, hfail⟩)

theorem Inv.exec_crcCheck (h : Inv s) (hp : s.phase = .crcCheck) (he : exec .crcCheck s = .next t) : Inv t := by
  obtain ⟨htxn, hbytes, hend⟩ : InTransaction s ∧ BytesPresent s s.t.cursor.toNat ∧
    ((s.t.status = .ok ∧ HeaderOk s ∧ s.t.cursor.toNat = 5 + declaredN s ∧ s.t.cursor.toNat ≤ 10) ∨
      (s.t.cursor.toNat = 5 ∧
        (s.t.status = .incorrectSlaveId ∨ s.t.status = .incorrectFunction ∨ s.t.status = .modbusException)) ∨
      (s.t.status = .timeout ∧ s.t.cursor.toNat ≤ 10)) := h.relies hp
  obtain ⟨hok, hlong, -, bytes, hread, rfl⟩ | ⟨hskip, rfl⟩ := execCrcCheck_next he
  · have hrec : bytes = received s := eq_received_of_aduRead hread
    have hlen : hdrLen ≤ bytes.length := by simpa [hrec, received] using hlong
    obtain ⟨hheader, hall, hle⟩ : HeaderOk s ∧ s.t.cursor.toNat = 5 + declaredN s ∧ s.t.cursor.toNat ≤ 10 := by
      simpa [hok] using hend
    refine h.move hp ⟨htxn, hbytes, ?_⟩ h.adu List.prefix_rfl
    simp only [hok]
    rcases crcStatus_cases hlen with ⟨hm, hst⟩ | ⟨-, hst⟩
    · exact ⟨by simp [hst], fun _ => ⟨hheader, hall, hle, hrec ▸ hm⟩⟩
    · exact ⟨by simp [hst], by simp [hst]⟩
  · have hfail : s.t.status ≠ .notInitialized ∧ s.t.status ≠ .ok := by
      rcases hend with ⟨hok, -, hall, -⟩ | ⟨-, hst | hst | hst⟩ | ⟨hst, -⟩
      · exact absurd ⟨hok, by rw [hall]; exact Nat.le_add_right 5 _⟩ hskip
      all_goals simp [hst]
    exact h.move hp ⟨htxn, hbytes, hfail.1, fun hok => absurd hok hfail.2⟩ h.adu List.prefix_rfl

theorem Inv.exec_decode (h : Inv s) (hp : s.phase = .decode) (he : exec .decode s = .next t) : Inv t := by
  obtain ⟨⟨hconf, -, -, hsetup⟩, -, hst, -⟩ : InTransaction s ∧ BytesPresent s s.t.cursor.toNat ∧
    s.t.status ≠ .notInitialized ∧ _ := h.relies hp
  obtain ⟨v, n, rfl, hv⟩ := execDecode_next he
  refine h.move hp ?_ h.adu List.prefix_rfl
  simpa [PhaseInv, hsetup, hst, hconf] using hv

theorem Inv.exec_respond (h : Inv s) (hp : s.phase = .respond) (he : exec .respond s = .next t) : Inv t := by
  obtain ⟨-, rfl⟩ | ⟨rest, -, rfl⟩ := execRespond_next he
  · exact (h.hold hp).withEnv _
  · exact h.move hp trivial h.adu (by simp)

theorem Inv.exec_fault (h : Inv s) (hp : s.phase = .fault) (he : exec .fault s = .next t) : Inv t := by
  cases he
  exact h.move hp (h.relies hp) h.adu List.prefix_rfl rfl ⟨by simp [h.fault, hp], rfl⟩

/-- Every phase keeps the invariant. -/
theorem Inv.exec_phaseInstr (h : Inv s) (he : exec (phaseInstr s.phase) s = .next t) : Inv t := by
  cases hp : s.phase <;> rw [hp] at he
  case idle => exact h.exec_idle hp he
  case setupCfg => exact h.exec_setupCfg hp he
  case build => exact h.exec_build hp he
  case txAssert => exact h.exec_txAssert hp he
  case txWrite => exact h.exec_txWrite hp he
  case txDrain => exact h.exec_txDrain hp he
  case txRelease => exact h.exec_txRelease hp he
  case rxArm => exact h.exec_rxArm hp he
  case rxPoll => exact h.exec_rxPoll hp he
  case rxHeader => exact h.exec_rxHeader hp he
  case rxDeadline => exact h.exec_rxDeadline hp he
  case crcCheck => exact h.exec_crcCheck hp he
  case decode => exact h.exec_decode hp he
  case respond => exact h.exec_respond hp he
  case fault => exact h.exec_fault hp he

end Phases

/-- The step of the sequencer keeps the invariant: a frame crosses, or a phase is performed. -/
theorem Inv.perform {s t : State} (h : Inv s) (hs : perform s = .next t) : Inv t := by
  cases hw : s.env.wire with
  | nil =>
    rw [perform_of_wire_nil hw] at hs
    exact h.exec_phaseInstr hs
  | cons f rest =>
    rw [perform_of_wire_cons hw] at hs
    cases hs
    exact h.deliver _ _

/-- Settles O39: reset gives the invariant back, and the step of the sequencer keeps it. -/
theorem stepKeepsTheInvariant : Obligations.StepKeepsTheInvariant := by
  intro s t h hs
  obtain ⟨-, -, rfl⟩ | ⟨-, -, hs⟩ | ⟨-, hs⟩ := step_next hs
  · exact h.resetBlock
  · exact (h.withEnv _).perform hs
  · exact h.perform hs

end Sys2Proof.Machine
end

section
/-! PROOFS. The ports (spec 10_state R38 to R41, 42 R128, 60_exceptions R179, R186): commands wait outside IDLE, the
response is held and taken, and a sample counts only in the cycle that asks for it. -/

namespace Sys2Proof.Machine

/-- Settles O37: the values of `State.reset`, and the outputs they give. -/
theorem resetStateHasTheGivenValues : Obligations.ResetStateHasTheGivenValues :=
  ⟨rfl, rfl, rfl, rfl, rfl, rfl⟩

/-- Settles O16: outside IDLE both command rows hold the command at the port. -/
theorem commandsWaitOutsideIdle : Obligations.CommandsWaitOutsideIdle := by
  intro s hp
  refine ⟨decide_eq_false hp, fun txen ms be sw line => ?_, fun slave addr count => ?_⟩
  · rw [exec, execSetup, if_neg hp]
  · rw [exec, execRdhr, if_neg hp]

/-! ### The response handshake -/

section Respond
variable {s : State} {rest : List Bool}

/-- RESPOND in a cycle with `rsp_ready` 0: the sample is used up, the response stands. -/
theorem step_respond_of_not_ready (hp : s.phase = .respond) (hr : s.env.rst = []) (hw : s.env.wire = [])
    (hready : s.env.rspReady = false :: rest) : step s = .next { s with env := { s.env with rspReady := rest } } := by
  rw [step_of_phase hr hw hp]
  show execRespond s = _
  unfold execRespond
  simp only [hready]
  exact hold_self (by exact hp)

/-- RESPOND in a cycle with `rsp_ready` 1: the response is taken. -/
theorem step_respond_of_ready (hp : s.phase = .respond) (hr : s.env.rst = []) (hw : s.env.wire = [])
    (hready : s.env.rspReady = true :: rest) :
    step s = .next { s with
      env := { s.env with rspReady := rest }, trace := s.trace ++ [.respond (responseOf s)], phase := .idle } := by
  rw [step_of_phase hr hw hp]
  show execRespond s = _
  unfold execRespond
  simp only [hready]

end Respond

/-- Settles O46: RESPOND delivers the two registers, and the invariant says what they hold there. -/
theorem failedResponsesCarryTheSentinel : Obligations.FailedResponsesCarryTheSentinel := by
  intro s rest h hp hsetup hr hw hready
  have hregs : (s.t.status ≠ .ok → s.t.result = sentinel) ∧ (s.t.status = .notInitialized ↔ s.cfg.configured = false) := by
    simpa [PhaseInv, hsetup] using h.relies hp
  refine ⟨_, step_respond_of_ready hp hr hw hready, rfl, ?_, hregs⟩
  simp [responseOf, hsetup]

/-- A run goes on after a step. -/
theorem run_succ_of_step {s t : State} (h : step s = .next t) (k : Nat) : core.run (k + 1) s = core.run k t := by
  simp only [Host.Core.run, show core.step s = .next t from h]

/-- A run ends at a fault. -/
theorem run_succ_of_fault {s : State} {f : Fault} (h : step s = .fault f) (k : Nat) :
    core.run (k + 1) s = .fault f := by
  simp only [Host.Core.run, show core.step s = .fault f from h]

/-- A run ends at a refusal. -/
theorem run_succ_of_refusal {s : State} {f : Refusal} (h : step s = .refused f) (k : Nat) :
    core.run (k + 1) s = .refused f := by
  simp only [Host.Core.run, show core.step s = .refused f from h]

/-- Settles O59, by induction on the number of cycles with `rsp_ready` 0. -/
theorem responseIsTakenInTheFirstReadyCycle : Obligations.ResponseIsTakenInTheFirstReadyCycle := by
  intro s n rest hp hr hw hready
  induction n generalizing s with
  | zero =>
    refine ⟨fun k hk => ⟨s, ?_, decide_eq_true hp, rfl, rfl⟩,
      _, run_succ_of_step (step_respond_of_ready hp hr hw hready) 0, rfl, rfl, rfl⟩
    rw [Nat.le_zero.1 hk]
    rfl
  | succ n ih =>
    have hstep := step_respond_of_not_ready hp hr hw (by rw [hready, List.replicate_succ, List.cons_append])
    obtain ⟨hwait, hdone⟩ :=
      ih { s with env := { s.env with rspReady := List.replicate n false ++ true :: rest } } hp hr hw rfl
    refine ⟨fun k hk => ?_, ?_⟩
    · cases k with
      | zero => exact ⟨s, rfl, decide_eq_true hp, rfl, rfl⟩
      | succ k =>
        rw [run_succ_of_step hstep]
        exact hwait k (Nat.le_of_succ_le_succ hk)
    · rw [run_succ_of_step hstep]
      exact hdone

/-! ### Samples -/

theorem callsNow_eq_true {p : Phase} : callsNow p = true ↔ p = .rxArm ∨ p = .rxDeadline := by
  cases p <;> decide

/-- Settles O60: the samples by the phases whose handshake is up, and the clock as the one answer of `Now()`. -/
theorem samplesCountOnlyWhereAsked : Obligations.SamplesCountOnlyWhereAsked := by
  intro s
  refine ⟨fun ready => ⟨?_, ?_⟩, fun ms => ⟨?_, fun hr hw => ⟨fun hp => ?_, fun hp => ?_⟩⟩⟩
  · simp [sampleTxReady, outputs]
  · simp [sampleRspReady, outputs]
  · simp [sampleClock, callsNow_eq_true]
  · have hclock : sampleClock ms s = { s with env := { s.env with now := [ms] } } := by simp [sampleClock, hp, callsNow]
    rw [step_of_phase (by exact hr) (by exact hw) (by exact hp), hclock]
    exact ⟨_, rfl, rfl, rfl, rfl⟩
  · have hclock : sampleClock ms s = { s with env := { s.env with now := [ms] } } := by simp [sampleClock, hp, callsNow]
    rw [step_of_phase (by exact hr) (by exact hw) (by exact hp), hclock]
    exact ⟨_, rfl, rfl, rfl, rfl⟩

end Sys2Proof.Machine
end

section
/-! PROOFS. Nothing of an earlier transaction is read (spec 10_state R35, 42 R132, 60_exceptions R180): two states that
differ in the transaction registers and the buffer agree, in every phase, on what is still read of them; every step keeps
this agreement. -/

namespace Sys2Proof.Machine

/-- The same state with other transaction registers and another buffer. -/
def State.withTxn (s : State) (regs : TxnRegs) (m : List Host.Cell) : State := { s with t := regs, adu := m }

/-- The registers that the acceptance of RDHR writes agree (R122). -/
def SameCommand (a b : TxnRegs) : Prop :=
  b.slaveId = a.slaveId ∧ b.functionCode = a.functionCode ∧ b.regAddr = a.regAddr ∧ b.regCount = a.regCount ∧
    b.status = a.status ∧ b.result = a.result

/-- The registers that RX_ARM writes agree (R141). -/
def SameCount (a b : TxnRegs) : Prop :=
  b.startMs = a.startMs ∧ b.cursor = a.cursor ∧ b.bytesRemaining = a.bytesRemaining

/-- The first `n` bytes of two buffers read alike. -/
def SameBytes (n : Nat) (m m' : List Host.Cell) : Prop := ∀ i < n, aduRead m' i = aduRead m i

/-- What is still read of the transaction registers and the buffer before it is written agrees, phase by phase: from BUILD
on the bytes of the request or what was received over them. -/
def LiveAgree (s : State) (regs : TxnRegs) (m : List Host.Cell) : Prop :=
  match s.phase with
  | .idle | .setupCfg | .fault => True
  | .build => SameCommand s.t regs
  | .txAssert | .txDrain | .txRelease | .rxArm | .decode => SameCommand s.t regs ∧ SameBytes 8 s.adu m
  | .txWrite => SameCommand s.t regs ∧ SameBytes 8 s.adu m ∧ regs.txIdx = s.t.txIdx ∧ s.t.txIdx.toNat < 8
  | .rxPoll | .rxHeader | .rxDeadline | .crcCheck =>
    SameCommand s.t regs ∧ SameCount s.t regs ∧ SameBytes (max 8 s.t.cursor.toNat) s.adu m
  | .respond => s.rspIsSetup = true ∨ (regs.status = s.t.status ∧ regs.result = s.t.result)

/-- Two outcomes agree: the same stop, or next states that differ in registers and bytes no longer read. -/
def OutcomesAgree : Result → Result → Prop
  | .next a, .next b => ∃ regs m, b = a.withTxn regs m ∧ LiveAgree a regs m
  | .fault f, .fault g => f = g
  | .refused f, .refused g => f = g
  | _, _ => False

/-- The three ways two outcomes agree. -/
theorem OutcomesAgree.cases {x y : Result} (h : OutcomesAgree x y) :
    (∃ a regs m, x = .next a ∧ y = .next (a.withTxn regs m) ∧ LiveAgree a regs m) ∨
      (∃ f, x = .fault f ∧ y = .fault f) ∨ ∃ f, x = .refused f ∧ y = .refused f := by
  cases x with
  | next a =>
    cases y with
    | next b =>
      obtain ⟨regs, m, rfl, hlive⟩ := h
      exact .inl ⟨a, regs, m, rfl, rfl, hlive⟩
    | fault g | refused g => exact h.elim
  | fault f =>
    cases y with
    | fault g => exact .inr (.inl ⟨f, rfl, congrArg _ (Eq.symm h)⟩)
    | next b | refused g => exact h.elim
  | refused f =>
    cases y with
    | refused g => exact .inr (.inr ⟨f, rfl, congrArg _ (Eq.symm h)⟩)
    | next b | fault g => exact h.elim

section WithTxn
variable (s : State) (regs : TxnRegs) (m : List Host.Cell)
@[simp] theorem withTxn_t : (s.withTxn regs m).t = regs := rfl
@[simp] theorem withTxn_adu : (s.withTxn regs m).adu = m := rfl
@[simp] theorem withTxn_cfg : (s.withTxn regs m).cfg = s.cfg := rfl
@[simp] theorem withTxn_env : (s.withTxn regs m).env = s.env := rfl
end WithTxn

section Reads
variable {s : State} {regs : TxnRegs} {m m' : List Host.Cell}

theorem SameBytes.mono {n k : Nat} (h : SameBytes n m m') (hk : k ≤ n) : SameBytes k m m' :=
  fun i hi => h i (hi.trans_le hk)

theorem aduFetch_congr {i : Nat} (h : aduRead m' i = aduRead m i) : aduFetch m' i = aduFetch m i := by
  rw [aduFetch, aduFetch, h]

theorem aduPrefix_congr {n : Nat} (h : SameBytes n m m') : aduPrefix m' n = aduPrefix m n := by
  induction n with
  | zero => rfl
  | succ n ih => rw [aduPrefix, aduPrefix, ih (h.mono n.le_succ), aduFetch_congr (h n n.lt_succ_self)]

/-- A read of a byte on which the buffers agree goes on alike, or stops alike. -/
theorem withAdu_agrees {i : Nat} {k k' : Byte → Result} (h : aduRead m i = aduRead s.adu i)
    (hk : ∀ b, OutcomesAgree (k b) (k' b)) : OutcomesAgree (withAdu s i k) (withAdu (s.withTxn regs m) i k') := by
  have hfetch : aduFetch (s.withTxn regs m).adu i = aduFetch s.adu i := aduFetch_congr h
  rw [withAdu, withAdu, hfetch]
  cases aduFetch s.adu i with
  | ok b => exact hk b
  | error f => exact rfl

/-- A read of `adu[0 .. n-1]` on which the buffers agree goes on alike, or stops alike. -/
theorem withAduPrefix_agrees {n : Nat} {k k' : List Byte → Result} (h : SameBytes n s.adu m)
    (hk : ∀ bytes, OutcomesAgree (k bytes) (k' bytes)) :
    OutcomesAgree (withAduPrefix s n k) (withAduPrefix (s.withTxn regs m) n k') := by
  have hfetch : aduPrefix (s.withTxn regs m).adu n = aduPrefix s.adu n := aduPrefix_congr h
  rw [withAduPrefix, withAduPrefix, hfetch]
  cases aduPrefix s.adu n with
  | ok bytes => exact hk bytes
  | error f => exact rfl

end Reads

section Phases
variable {s : State} {regs : TxnRegs} {m : List Host.Cell}

theorem LiveAgree.inPhase {p : Phase} (h : LiveAgree s regs m) (hp : s.phase = p) :
    LiveAgree (s.setPhase p) regs m := by rwa [setPhase_self s p hp]

/-- A held phase holds in both states. -/
theorem LiveAgree.hold {p : Phase} (h : LiveAgree s regs m) (hp : s.phase = p) :
    OutcomesAgree (hold p s) (hold p (s.withTxn regs m)) := ⟨regs, m, rfl, h.inPhase hp⟩

theorem LiveAgree.exec_idle (h : LiveAgree s regs m) (hp : s.phase = .idle) :
    OutcomesAgree (execIdle s) (execIdle (s.withTxn regs m)) := by
  unfold execIdle
  rw [withTxn_env]
  cases s.env.cmds with
  | nil => exact h.hold hp
  | cons c rest =>
    dsimp only
    split
    · cases hc : s.cfg.configured with
      | true =>
        rw [acceptRdhr_configured _ _ _ (by exact hc), acceptRdhr_configured _ _ _ (by exact hc)]
        exact ⟨_, _, rfl, rfl, rfl, rfl, rfl, rfl, rfl⟩
      | false =>
        rw [acceptRdhr_unconfigured _ _ _ (by exact hc), acceptRdhr_unconfigured _ _ _ (by exact hc)]
        exact ⟨_, _, rfl, .inr ⟨rfl, rfl⟩⟩
    · unfold acceptSetup
      rw [setPhase_cfg, setPhase_cfg, withTxn_cfg]
      split
      · exact rfl
      · exact ⟨_, _, rfl, trivial⟩

theorem LiveAgree.exec_setupCfg (h : LiveAgree s regs m) (hp : s.phase = .setupCfg) :
    OutcomesAgree (execSetupCfg s) (execSetupCfg (s.withTxn regs m)) := by
  unfold execSetupCfg
  rw [withTxn_env]
  cases s.env.configure with
  | nil => exact h.hold hp
  | cons a rest => exact ⟨_, _, rfl, .inl rfl⟩

theorem LiveAgree.exec_build (h : LiveAgree s regs m) (hp : s.phase = .build) :
    OutcomesAgree (execBuild s) (execBuild (s.withTxn regs m)) := by
  have hcmd : SameCommand s.t regs := h.inPhase hp
  refine ⟨_, _, rfl, hcmd, fun i hi => ?_⟩
  obtain ⟨hslave, -, haddr, hcount, -, -⟩ := hcmd
  show aduRead (aduWriteList m 0 (buildReadRequest regs.slaveId regs.regAddr regs.regCount)) i = _
  rw [hslave, haddr, hcount, aduRead_staged, aduRead_staged, if_pos hi, if_pos hi]

theorem LiveAgree.exec_txAssert (h : LiveAgree s regs m) (hp : s.phase = .txAssert) :
    OutcomesAgree (execTxAssert s) (execTxAssert (s.withTxn regs m)) := by
  obtain ⟨hcmd, hbytes⟩ : SameCommand s.t regs ∧ SameBytes 8 s.adu m := h.inPhase hp
  rw [execTxAssert, execTxAssert, driveIfPresent_eq, driveIfPresent_eq]
  exact ⟨_, _, rfl, hcmd, hbytes, rfl, Nat.zero_lt_succ 7⟩

theorem LiveAgree.exec_txWrite (h : LiveAgree s regs m) (hp : s.phase = .txWrite) :
    OutcomesAgree (execTxWrite s) (execTxWrite (s.withTxn regs m)) := by
  obtain ⟨hcmd, hbytes, hidx, hlt⟩ : SameCommand s.t regs ∧ SameBytes 8 s.adu m ∧ regs.txIdx = s.t.txIdx ∧
    s.t.txIdx.toNat < 8 := h.inPhase hp
  unfold execTxWrite
  rw [withTxn_env]
  cases s.env.txReady with
  | nil => exact h.hold hp
  | cons ready rest =>
    cases ready with
    | false => exact ⟨regs, m, rfl, h.inPhase hp⟩
    | true =>
      dsimp only
      rw [withTxn_t, hidx]
      refine withAdu_agrees (hbytes _ hlt) fun b => ⟨_, _, rfl, ?_⟩
      by_cases hlast : s.t.txIdx + 1 = 8
      · rw [if_pos hlast]
        exact ⟨hcmd, hbytes⟩
      · have hnext : (s.t.txIdx + 1).toNat < 8 := by bv_omega
        rw [if_neg hlast]
        exact ⟨hcmd, hbytes, rfl, hnext⟩

theorem LiveAgree.exec_txDrain (h : LiveAgree s regs m) (hp : s.phase = .txDrain) :
    OutcomesAgree (execTxDrain s) (execTxDrain (s.withTxn regs m)) := by
  unfold execTxDrain
  rw [withTxn_env]
  cases s.env.drain with
  | nil => exact h.hold hp
  | cons a rest => exact ⟨regs, m, rfl, h.inPhase hp⟩

theorem LiveAgree.exec_txRelease (h : LiveAgree s regs m) (hp : s.phase = .txRelease) :
    OutcomesAgree (execTxRelease s) (execTxRelease (s.withTxn regs m)) := by
  rw [execTxRelease, execTxRelease, driveIfPresent_eq, driveIfPresent_eq]
  exact ⟨regs, m, rfl, h.inPhase hp⟩

theorem LiveAgree.exec_rxArm (h : LiveAgree s regs m) (hp : s.phase = .rxArm) :
    OutcomesAgree (execRxArm s) (execRxArm (s.withTxn regs m)) := by
  obtain ⟨hcmd, hbytes⟩ : SameCommand s.t regs ∧ SameBytes 8 s.adu m := h.inPhase hp
  unfold execRxArm
  rw [withTxn_env]
  cases s.env.now with
  | nil => exact h.hold hp
  | cons now rest =>
    exact ⟨_, _, rfl, hcmd, ⟨rfl, rfl, rfl⟩, hbytes⟩

/-- The store of RX_POLL: both states overrun, both store at the same index, or both stop. -/
theorem storeByte_agrees (b : Byte) (hcmd : SameCommand s.t regs) (hcount : SameCount s.t regs)
    (hbytes : SameBytes (max 8 s.t.cursor.toNat) s.adu m) :
    OutcomesAgree (storeByte b s) (storeByte b (s.withTxn regs m)) := by
  obtain ⟨hstart, hcursor, hrem⟩ := hcount
  unfold storeByte
  rw [withTxn_t, withTxn_adu, hcursor, hrem]
  split
  · exact ⟨regs, m, rfl, trivial⟩
  · split
    · rename_i hroom
      have hroom : s.t.cursor.toNat < 10 := hroom
      have hnext : (s.t.cursor + 1).toNat = s.t.cursor.toNat + 1 := toNat_index_succ (by omega)
      refine ⟨_, _, rfl, hcmd, ⟨hstart, rfl, rfl⟩, fun i hi => ?_⟩
      show aduRead (aduWrite m _ b) i = aduRead (aduWrite s.adu _ b) i
      rw [aduRead_aduWrite, aduRead_aduWrite]
      split
      · rfl
      · have hi : i < max 8 (s.t.cursor + 1).toNat := hi
        exact hbytes i (by omega)
    · exact rfl

theorem LiveAgree.exec_rxPoll (h : LiveAgree s regs m) (hp : s.phase = .rxPoll) :
    OutcomesAgree (execRxPoll s) (execRxPoll (s.withTxn regs m)) := by
  obtain ⟨hcmd, hcount, hbytes⟩ : SameCommand s.t regs ∧ SameCount s.t regs ∧
    SameBytes (max 8 s.t.cursor.toNat) s.adu m := h.inPhase hp
  unfold execRxPoll
  rw [withTxn_env]
  cases s.env.rx with
  | nil => exact h.hold hp
  | cons a rest =>
    cases a with
    | none => exact ⟨regs, m, rfl, hcmd, hcount, hbytes⟩
    | some b => exact storeByte_agrees (s := takePoll s (some b) rest) b hcmd hcount hbytes

theorem LiveAgree.exec_rxHeader (h : LiveAgree s regs m) (hp : s.phase = .rxHeader) :
    OutcomesAgree (execRxHeader s) (execRxHeader (s.withTxn regs m)) := by
  obtain ⟨hcmd, hcount, hbytes⟩ : SameCommand s.t regs ∧ SameCount s.t regs ∧
    SameBytes (max 8 s.t.cursor.toNat) s.adu m := h.inPhase hp
  have ⟨hslave, hfunction, haddr, hregs, hstatus, hresult⟩ := hcmd
  have ⟨hstart, hcursor, hrem⟩ := hcount
  unfold execRxHeader
  rw [withTxn_t, hcursor]
  split
  · refine withAdu_agrees (hbytes 0 (by simp)) fun b0 => ?_
    refine withAdu_agrees (hbytes 1 (by simp)) fun b1 => ?_
    refine withAdu_agrees (hbytes 2 (by simp)) fun b2 => ?_
    rw [hslave, hfunction, hstatus]
    exact ⟨_, _, rfl, ⟨hslave, hfunction, haddr, hregs, rfl, hresult⟩, ⟨hstart, hcursor, rfl⟩, hbytes⟩
  · exact ⟨regs, m, rfl, hcmd, hcount, hbytes⟩

theorem LiveAgree.exec_rxDeadline (h : LiveAgree s regs m) (hp : s.phase = .rxDeadline) :
    OutcomesAgree (execRxDeadline s) (execRxDeadline (s.withTxn regs m)) := by
  obtain ⟨hcmd, hcount, hbytes⟩ : SameCommand s.t regs ∧ SameCount s.t regs ∧
    SameBytes (max 8 s.t.cursor.toNat) s.adu m := h.inPhase hp
  have ⟨hslave, hfunction, haddr, hregs, hstatus, hresult⟩ := hcmd
  have ⟨hstart, hcursor, hrem⟩ := hcount
  unfold execRxDeadline
  rw [withTxn_env]
  cases s.env.now with
  | nil => exact h.hold hp
  | cons now rest =>
    dsimp only
    rw [withTxn_t, withTxn_cfg, hstart, hrem, hstatus]
    refine ⟨_, _, rfl, ?_⟩
    split
    · exact ⟨⟨hslave, hfunction, haddr, hregs, rfl, hresult⟩, ⟨rfl, hcursor, rfl⟩, hbytes⟩
    · exact ⟨⟨hslave, hfunction, haddr, hregs, rfl, hresult⟩, ⟨rfl, hcursor, rfl⟩, hbytes⟩

theorem LiveAgree.exec_crcCheck (h : LiveAgree s regs m) (hp : s.phase = .crcCheck) :
    OutcomesAgree (execCrcCheck s) (execCrcCheck (s.withTxn regs m)) := by
  obtain ⟨hcmd, hcount, hbytes⟩ : SameCommand s.t regs ∧ SameCount s.t regs ∧
    SameBytes (max 8 s.t.cursor.toNat) s.adu m := h.inPhase hp
  have ⟨hslave, hfunction, haddr, hregs, hstatus, hresult⟩ := hcmd
  obtain ⟨-, hcursor, -⟩ := hcount
  have hrequest : SameBytes 8 s.adu m := hbytes.mono (Nat.le_max_left _ _)
  unfold execCrcCheck
  rw [withTxn_t, hstatus, hcursor]
  split
  · refine withAduPrefix_agrees (hbytes.mono (Nat.le_max_right _ _)) fun bytes => ?_
    exact ⟨_, _, rfl, ⟨hslave, hfunction, haddr, hregs, rfl, hresult⟩, hrequest⟩
  · exact ⟨regs, m, rfl, hcmd, hrequest⟩

theorem LiveAgree.exec_decode (h : LiveAgree s regs m) (hp : s.phase = .decode) :
    OutcomesAgree (execDecode s) (execDecode (s.withTxn regs m)) := by
  obtain ⟨⟨-, -, -, hregs, hstatus, -⟩, hbytes⟩ : SameCommand s.t regs ∧ SameBytes 8 s.adu m := h.inPhase hp
  have hvalue (v : Word) : OutcomesAgree (respondWith v s) (respondWith v (s.withTxn regs m)) :=
    ⟨_, _, rfl, .inr ⟨hstatus, rfl⟩⟩
  have hany : OutcomesAgree (respondUndefined s) (respondUndefined (s.withTxn regs m)) :=
    ⟨_, _, rfl, .inr ⟨hstatus, rfl⟩⟩
  have hread {i : Nat} {k k' : Byte → Result} (hi : i < 8) (hk : ∀ b, OutcomesAgree (k b) (k' b)) :
      OutcomesAgree (withAdu s i k) (withAdu (s.withTxn regs m) i k') := withAdu_agrees (hbytes i hi) hk
  unfold execDecode
  rw [withTxn_t, withTxn_cfg, hstatus, hregs]
  split
  · exact hvalue _
  · split
    · refine hread (by decide) fun b2 => ?_
      split
      · exact hread (by decide) fun d0 => hread (by decide) fun d1 => hvalue _
      · exact hany
    · split
      · refine hread (by decide) fun b2 => ?_
        split
        · exact hread (by decide) fun d0 => hread (by decide) fun d1 => hread (by decide) fun d2 =>
            hread (by decide) fun d3 => hvalue _
        · exact hany
      · exact hany

theorem LiveAgree.exec_respond (h : LiveAgree s regs m) (hp : s.phase = .respond) :
    OutcomesAgree (execRespond s) (execRespond (s.withTxn regs m)) := by
  have hlive : s.rspIsSetup = true ∨ (regs.status = s.t.status ∧ regs.result = s.t.result) := h.inPhase hp
  have hresponse : responseOf (s.withTxn regs m) = responseOf s := by
    rcases hlive with hsetup | ⟨hstatus, hresult⟩
    · simp [responseOf, State.withTxn, hsetup]
    · simp [responseOf, State.withTxn, hstatus, hresult]
  unfold execRespond
  rw [withTxn_env, hresponse]
  cases s.env.rspReady with
  | nil => exact h.hold hp
  | cons ready rest =>
    cases ready with
    | false => exact ⟨regs, m, rfl, hlive⟩
    | true => exact ⟨regs, m, rfl, trivial⟩

/-- Every phase runs alike in two states that agree on what it reads. -/
theorem LiveAgree.exec_phaseInstr (h : LiveAgree s regs m) :
    OutcomesAgree (exec (phaseInstr s.phase) s) (exec (phaseInstr s.phase) (s.withTxn regs m)) := by
  cases hp : s.phase
  case idle => exact h.exec_idle hp
  case setupCfg => exact h.exec_setupCfg hp
  case build => exact h.exec_build hp
  case txAssert => exact h.exec_txAssert hp
  case txWrite => exact h.exec_txWrite hp
  case txDrain => exact h.exec_txDrain hp
  case txRelease => exact h.exec_txRelease hp
  case rxArm => exact h.exec_rxArm hp
  case rxPoll => exact h.exec_rxPoll hp
  case rxHeader => exact h.exec_rxHeader hp
  case rxDeadline => exact h.exec_rxDeadline hp
  case crcCheck => exact h.exec_crcCheck hp
  case decode => exact h.exec_decode hp
  case respond => exact h.exec_respond hp
  case fault => exact ⟨regs, m, rfl, trivial⟩

/-- A frame on the wire crosses alike: no register and no byte of the buffer has a part in it. -/
theorem LiveAgree.deliver (h : LiveAgree s regs m) (dir : Direction) (bytes : List Byte) :
    OutcomesAgree (.next (deliver dir bytes s)) (.next (deliver dir bytes (s.withTxn regs m))) := by
  cases dir with
  | toSlave =>
    rw [deliver_toSlave, deliver_toSlave]
    exact ⟨regs, m, rfl, h⟩
  | fromSlave => exact ⟨regs, m, rfl, h⟩

theorem LiveAgree.perform (h : LiveAgree s regs m) : OutcomesAgree (perform s) (perform (s.withTxn regs m)) := by
  cases hw : s.env.wire with
  | nil =>
    rw [perform_of_wire_nil hw, perform_of_wire_nil (s := s.withTxn regs m) hw]
    exact h.exec_phaseInstr
  | cons f rest =>
    rw [perform_of_wire_cons hw, perform_of_wire_cons (s := s.withTxn regs m) hw]
    exact h.deliver _ _

/-- A step keeps the agreement; reset leaves no difference at all. -/
theorem LiveAgree.step (h : LiveAgree s regs m) : OutcomesAgree (step s) (step (s.withTxn regs m)) := by
  have hdrop : LiveAgree (dropRst s) regs m := h
  unfold Machine.step
  rw [withTxn_env]
  split
  · exact ⟨_, _, rfl, trivial⟩
  · exact hdrop.perform
  · exact h.perform

/-- Whole runs agree. -/
theorem LiveAgree.run (k : Nat) (h : LiveAgree s regs m) :
    OutcomesAgree (core.run k s) (core.run k (s.withTxn regs m)) := by
  induction k generalizing s regs m with
  | zero => exact ⟨regs, m, rfl, h⟩
  | succ k ih =>
    obtain ⟨a, regs', m', ha, hb, hlive⟩ | ⟨f, ha, hb⟩ | ⟨f, ha, hb⟩ := h.step.cases
    · rw [run_succ_of_step ha, run_succ_of_step hb]
      exact ih hlive
    · rw [run_succ_of_fault ha, run_succ_of_fault hb]
      exact rfl
    · rw [run_succ_of_refusal ha, run_succ_of_refusal hb]
      exact rfl

end Phases

/-- Settles O54: in IDLE nothing of the transaction registers and the buffer is live, and runs keep the agreement. -/
theorem noTransactionReadsAnEarlierOne : Obligations.NoTransactionReadsAnEarlierOne := by
  intro s regs adu k hp
  have hlive : LiveAgree s regs adu := by rw [LiveAgree, hp]; trivial
  obtain ⟨a, regs', m', ha, hb, -⟩ | ⟨f, ha, hb⟩ | ⟨f, ha, hb⟩ := (hlive.run k).cases
  · rw [ha, show core.run k { s with t := regs, adu := adu } = .next (a.withTxn regs' m') from hb]
    exact ⟨rfl, rfl, rfl, rfl, rfl, rfl⟩
  · rw [ha, show core.run k { s with t := regs, adu := adu } = .fault f from hb]
  · rw [ha, show core.run k { s with t := regs, adu := adu } = .refused f from hb]

end Sys2Proof.Machine
end

section
/-! PROOFS. The buffer as memory and the bytes on the link (spec 10_state R43, 20_memory R64, R66, R71 to R73): a read stops
at the first byte that is not there, and the invariant puts every byte that is read there; who writes the buffer; what
crosses, and what is sent. -/

namespace Sys2Proof.Machine

/-! ### Reads stop at the first byte that is not there -/

/-- Reading `m` upwards from `lo`, the bytes below `k` are there and the read of the byte at `k` stops with `f`. -/
structure StopsAt (m : List Host.Cell) (lo k : Nat) (f : Fault) : Prop where
  le : lo ≤ k
  below : ∀ j, lo ≤ j → j < k → ∃ b, aduFetch m j = .ok b
  stop : aduFetch m k = .error f

section Stops
variable {s : State} {m : List Host.Cell} {lo i k n : Nat} {f : Fault}

theorem aduFetch_of_ge (hi : aduCap ≤ i) : aduFetch m i = .error (.noSuchByte i) := if_neg (Nat.not_lt.2 hi)

theorem aduFetch_of_unwritten (hi : i < aduCap) (h : aduRead m i = none) :
    aduFetch m i = .error (.unwrittenByte i) := by rw [aduFetch, if_pos hi, h]

theorem exists_aduFetch_ok (hi : i < aduCap) (h : (aduRead m i).isSome = true) : ∃ b, aduFetch m i = .ok b :=
  have ⟨b, hb⟩ := Option.isSome_iff_exists.1 h
  ⟨b, aduFetch_ok hi hb⟩

/-- The first unwritten byte of the buffer stops a run of reads. -/
theorem StopsAt.unwritten (hle : lo ≤ k) (hk : k < aduCap)
    (hbelow : ∀ j, lo ≤ j → j < k → (aduRead m j).isSome = true) (hnone : aduRead m k = none) :
    StopsAt m lo k (.unwrittenByte k) :=
  ⟨hle, fun j hlo hj => exists_aduFetch_ok (hj.trans hk) (hbelow j hlo hj), aduFetch_of_unwritten hk hnone⟩

/-- The end of a buffer full of written bytes stops a run of reads. -/
theorem StopsAt.full (hbelow : ∀ j < aduCap, (aduRead m j).isSome = true) :
    StopsAt m 0 aduCap (.noSuchByte aduCap) :=
  ⟨Nat.zero_le _, fun j _ hj => exists_aduFetch_ok hj (hbelow j hj), aduFetch_of_ge le_rfl⟩

theorem withAdu_of_error {cont : Byte → Result} (h : aduFetch s.adu i = .error f) : withAdu s i cont = .fault f := by
  rw [withAdu, h]

/-- A read in a run that stops: it stops there, or the rest of the run does. -/
theorem StopsAt.withAdu {cont : Byte → Result} (h : StopsAt s.adu i k f)
    (hcont : StopsAt s.adu (i + 1) k f → ∀ b, cont b = .fault f) : withAdu s i cont = .fault f := by
  obtain ⟨hle, hbelow, hstop⟩ := h
  rcases hle.eq_or_lt with rfl | hlt
  · exact withAdu_of_error hstop
  · obtain ⟨b, hb⟩ := hbelow i le_rfl hlt
    rw [Machine.withAdu, hb]
    exact hcont ⟨hlt, fun j hj => hbelow j (Nat.le_of_succ_le hj), hstop⟩ b

theorem exists_aduPrefix_ok (h : ∀ j < n, ∃ b, aduFetch m j = .ok b) : ∃ bytes, aduPrefix m n = .ok bytes := by
  induction n with
  | zero => exact ⟨[], rfl⟩
  | succ n ih =>
    obtain ⟨bytes, hbytes⟩ := ih fun j hj => h j (hj.trans n.lt_succ_self)
    obtain ⟨b, hb⟩ := h n n.lt_succ_self
    exact ⟨bytes ++ [b], by rw [aduPrefix, hbytes, hb]⟩

/-- Reading `adu[0..n-1]` with the missing byte among them stops at it. -/
theorem StopsAt.aduPrefix (h : StopsAt m 0 k f) (hk : k < n) : aduPrefix m n = .error f := by
  induction n with
  | zero => exact absurd hk (Nat.not_lt_zero k)
  | succ n ih =>
    rcases (Nat.le_of_lt_succ hk).eq_or_lt with rfl | hlt
    · obtain ⟨bytes, hbytes⟩ := exists_aduPrefix_ok fun j hj => h.below j j.zero_le hj
      rw [Machine.aduPrefix, hbytes, h.stop]
    · rw [Machine.aduPrefix, ih hlt]

theorem exec_txWrite_of_fetch_error {rest : List Bool} (hready : s.env.txReady = true :: rest)
    (hstop : aduFetch s.adu s.t.txIdx.toNat = .error f) : exec .txWrite s = .fault f := by
  show execTxWrite s = _
  unfold execTxWrite
  rw [hready]
  exact withAdu_of_error hstop

theorem StopsAt.exec_rxHeader (h : StopsAt s.adu 0 k f) (hk : k < 3) (hcursor : s.t.cursor.toNat = 5) :
    exec .rxHeader s = .fault f := by
  have hfive : s.t.cursor = BitVec.ofNat 4 hdrLen := BitVec.eq_of_toNat_eq hcursor
  rw [exec, execRxHeader, if_pos hfive]
  exact h.withAdu fun h1 _ => h1.withAdu fun h2 _ => h2.withAdu fun h3 _ => absurd h3.le (Nat.not_le.2 hk)

theorem StopsAt.exec_crcCheck (h : StopsAt s.adu 0 k f) (hk : k < s.t.cursor.toNat) (hok : s.t.status = .ok)
    (hlong : 5 ≤ s.t.cursor.toNat) : exec .crcCheck s = .fault f := by
  rw [exec, execCrcCheck, if_pos ⟨hok, hlong⟩, withAduPrefix, h.aduPrefix hk]

theorem toNat_declaredCount (b : Byte) : (declaredCount b).toNat = b.toNat % 128 := by
  rw [declaredCount, BitVec.toNat_and]
  exact Nat.and_two_pow_sub_one_eq_mod b.toNat 7

/-- DECODE with a count of 1 or 2 reads byte 2 first. -/
theorem exec_decode_of_count_fetch_error (hok : s.t.status = .ok) (hcount : s.t.regCount = 1 ∨ s.t.regCount = 2)
    (hstop : aduFetch s.adu 2 = .error f) : exec .decode s = .fault f := by
  rw [exec, execDecode, if_neg (not_not.2 hok)]
  rcases hcount with h1 | h2
  · rw [if_pos h1, withAdu_of_error hstop]
  · rw [if_neg (by rw [h2]; decide), if_pos h2, withAdu_of_error hstop]

/-- With a long enough payload declared, DECODE reads two data bytes for each register. -/
theorem StopsAt.exec_decode {b2 : Byte} (h : StopsAt s.adu 3 k f) (hk : k < 3 + 2 * s.t.regCount.toNat)
    (hok : s.t.status = .ok) (hcount : s.t.regCount = 1 ∨ s.t.regCount = 2) (hb2 : aduRead s.adu 2 = some b2)
    (hlong : 2 * s.t.regCount.toNat ≤ b2.toNat % 128) : exec .decode s = .fault f := by
  rw [← toNat_declaredCount] at hlong
  rw [exec, execDecode, if_neg (not_not.2 hok)]
  rcases hcount with hc | hc
  · rw [if_pos hc, withAdu_eq _ (by decide) hb2]
    rw [hc] at hk hlong
    rw [if_pos (show 2 ≤ _ from hlong)]
    exact h.withAdu fun h4 _ => h4.withAdu fun h5 _ => absurd h5.le (Nat.not_le.2 hk)
  · rw [if_neg (by rw [hc]; decide), if_pos hc, withAdu_eq _ (by decide) hb2]
    rw [hc] at hk hlong
    rw [if_pos (show 4 ≤ _ from hlong)]
    exact h.withAdu fun h4 _ => h4.withAdu fun h5 _ => h5.withAdu fun h6 _ => h6.withAdu fun h7 _ =>
      absurd h7.le (Nat.not_le.2 hk)

end Stops

/-- Settles O34: each phase is a run of reads, and the missing byte is in it. -/
theorem readsOfMissingBytesStop : Obligations.ReadsOfMissingBytesStop := by
  intro s
  refine ⟨fun rest hready => ⟨fun hge => ?_, fun hlt hnone => ?_⟩, fun k hk hcursor hbelow hnone => ?_,
    fun hok hlong => ⟨fun k hk hcap hbelow hnone => ?_, fun hover hfull => ?_⟩,
    fun hok hcount => ⟨fun hnone => ?_, fun b2 k hb2 hlong hge hk hbelow hnone => ?_⟩⟩
  · exact exec_txWrite_of_fetch_error hready (aduFetch_of_ge hge)
  · exact exec_txWrite_of_fetch_error hready (aduFetch_of_unwritten hlt hnone)
  · have hcap : k < aduCap := hk.trans (by decide)
    exact (StopsAt.unwritten k.zero_le hcap (fun j _ => hbelow j) hnone).exec_rxHeader hk hcursor
  · exact (StopsAt.unwritten k.zero_le hcap (fun j _ => hbelow j) hnone).exec_crcCheck hk hok hlong
  · exact (StopsAt.full hfull).exec_crcCheck hover hok hlong
  · exact exec_decode_of_count_fetch_error hok hcount (aduFetch_of_unwritten (by decide) hnone)
  · have hcap : k < aduCap := by
      have hle : s.t.regCount.toNat ≤ 2 := by rcases hcount with h | h <;> rw [h] <;> decide
      unfold aduCap
      omega
    exact (StopsAt.unwritten hge hcap hbelow hnone).exec_decode hk hok hcount hb2 hlong

/-! ### In a state of the invariant every byte that is read is there -/

/-- The step goes on to a next state. -/
def GoesOn (r : Result) : Prop := ∃ t, r = .next t

/-- A second SETUP since reset is the command offered in IDLE. -/
def SecondSetupOffered (s : State) : Prop :=
  s.phase = .idle ∧ s.cfg.setupSeen = true ∧ ∃ c rest, s.env.cmds = c :: rest ∧ c.op = 0

section GoesOn
variable {s : State}

theorem GoesOn.withAdu {i : Nat} {cont : Byte → Result} (hi : i < aduCap) (h : (aduRead s.adu i).isSome = true)
    (hcont : ∀ b, aduRead s.adu i = some b → GoesOn (cont b)) : GoesOn (withAdu s i cont) := by
  obtain ⟨b, hb⟩ := Option.isSome_iff_exists.1 h
  rw [withAdu_eq cont hi hb]
  exact hcont b hb

theorem GoesOn.withAduPrefix {n : Nat} {cont : List Byte → Result} (hn : n ≤ aduCap) (h : BytesPresent s n)
    (hcont : ∀ bytes, GoesOn (cont bytes)) : GoesOn (withAduPrefix s n cont) := by
  obtain ⟨bytes, hbytes⟩ := exists_aduPrefix_ok fun j hj => exists_aduFetch_ok (hj.trans_le hn) (h j hj)
  rw [Machine.withAduPrefix, hbytes]
  exact hcont bytes

/-- IDLE waits, accepts, or refuses a second SETUP. -/
theorem execIdle_goesOn_or_refuses (hp : s.phase = .idle) :
    GoesOn (execIdle s) ∨ (execIdle s = .refused .secondSetup ∧ SecondSetupOffered s) := by
  unfold execIdle
  split
  · exact .inl ⟨_, rfl⟩
  · rename_i c rest hc
    split
    · exact .inl ⟨_, rfl⟩
    · rename_i hop
      cases hseen : s.cfg.setupSeen with
      | false => exact .inl ⟨_, by rw [acceptSetup, if_neg (by simp [hseen])]⟩
      | true =>
        refine .inr ⟨if_pos hseen, hp, hseen, c, rest, hc, ?_⟩
        bv_omega

theorem aduRead_isSome_of_requestStaged {i : Nat} (h : RequestStaged s) (hi : i < 8) :
    (aduRead s.adu i).isSome = true := by
  have hmem : aduRead s.adu i ∈ (List.range 8).map (aduRead s.adu) := List.mem_map_of_mem (List.mem_range.2 hi)
  rw [h] at hmem
  obtain ⟨b, -, hb⟩ := List.mem_map.1 hmem
  rw [← hb, Option.isSome_some]

theorem Inv.txWrite_goesOn (h : Inv s) (hp : s.phase = .txWrite) : GoesOn (execTxWrite s) := by
  obtain ⟨-, -, hstaged, hidx⟩ : InTransaction s ∧ s.t.status = .ok ∧ RequestStaged s ∧ s.t.txIdx.toNat < 8 :=
    h.relies hp
  unfold execTxWrite
  split
  · exact ⟨_, rfl⟩
  · exact ⟨_, rfl⟩
  · exact .withAdu (hidx.trans (by decide)) (aduRead_isSome_of_requestStaged hstaged hidx) fun b _ => ⟨_, rfl⟩

theorem Inv.rxPoll_goesOn (h : Inv s) (hp : s.phase = .rxPoll) : GoesOn (execRxPoll s) := by
  obtain ⟨-, -, -, -, hcount⟩ : InTransaction s ∧ s.t.status = .ok ∧ BytesPresent s s.t.cursor.toNat ∧
    0 < s.t.bytesRemaining.toNat ∧ (HeaderPending s ∨ (PayloadPending s ∧ HeaderOk s)) := h.relies hp
  have hle : s.t.cursor.toNat ≤ 10 := by rcases hcount with ⟨hlt, -⟩ | ⟨⟨-, hle, -⟩, -⟩ <;> omega
  unfold execRxPoll storeByte
  split
  · exact ⟨_, rfl⟩
  · exact ⟨_, rfl⟩
  · split
    · exact ⟨_, rfl⟩
    · rename_i hne
      have hroom : s.t.cursor.toNat < aduCap :=
        lt_of_le_of_ne hle fun hten => hne (BitVec.eq_of_toNat_eq hten)
      rw [takePoll_t, if_pos hroom]
      exact ⟨_, rfl⟩

theorem Inv.rxHeader_goesOn (h : Inv s) (hp : s.phase = .rxHeader) : GoesOn (execRxHeader s) := by
  obtain ⟨-, -, hbytes, -⟩ : InTransaction s ∧ s.t.status = .ok ∧ BytesPresent s s.t.cursor.toNat ∧ _ := h.relies hp
  unfold execRxHeader
  split
  · rename_i hfive
    rw [hfive] at hbytes
    have hread {i : Nat} {cont : Byte → Result} (hi : i < 5) (hcont : ∀ b, GoesOn (cont b)) :
        GoesOn (Machine.withAdu s i cont) := .withAdu (hi.trans (by decide)) (hbytes i hi) fun b _ => hcont b
    exact hread (by decide) fun b0 => hread (by decide) fun b1 => hread (by decide) fun b2 => ⟨_, rfl⟩
  · exact ⟨_, rfl⟩

theorem Inv.crcCheck_goesOn (h : Inv s) (hp : s.phase = .crcCheck) : GoesOn (execCrcCheck s) := by
  obtain ⟨-, hbytes, hend⟩ : InTransaction s ∧ BytesPresent s s.t.cursor.toNat ∧
    ((s.t.status = .ok ∧ HeaderOk s ∧ s.t.cursor.toNat = 5 + declaredN s ∧ s.t.cursor.toNat ≤ 10) ∨
      (s.t.cursor.toNat = 5 ∧
        (s.t.status = .incorrectSlaveId ∨ s.t.status = .incorrectFunction ∨ s.t.status = .modbusException)) ∨
      (s.t.status = .timeout ∧ s.t.cursor.toNat ≤ 10)) := h.relies hp
  have hle : s.t.cursor.toNat ≤ 10 := by rcases hend with ⟨-, -, -, hle⟩ | ⟨hfive, -⟩ | ⟨-, hle⟩ <;> omega
  unfold execCrcCheck
  split
  · exact .withAduPrefix hle hbytes fun bytes => ⟨_, rfl⟩
  · exact ⟨_, rfl⟩

/-- DECODE reads data bytes only as far as the declared payload goes, and that has been received. -/
theorem Inv.decode_goesOn (h : Inv s) (hp : s.phase = .decode) : GoesOn (execDecode s) := by
  obtain ⟨-, hbytes, -, hdone⟩ : InTransaction s ∧ BytesPresent s s.t.cursor.toNat ∧ s.t.status ≠ .notInitialized ∧
    (s.t.status = .ok → HeaderOk s ∧ s.t.cursor.toNat = 5 + declaredN s ∧ s.t.cursor.toNat ≤ 10 ∧
      trailerMatches (received s) = true) := h.relies hp
  unfold execDecode
  split
  · exact ⟨_, rfl⟩
  · rename_i hok
    obtain ⟨-, hall, hle, -⟩ := hdone (not_not.1 hok)
    have hread {i : Nat} {cont : Byte → Result} (hi : i < 5 + declaredN s)
        (hcont : ∀ b, aduRead s.adu i = some b → GoesOn (cont b)) : GoesOn (Machine.withAdu s i cont) :=
      .withAdu (by unfold aduCap; omega) (hbytes i (by omega)) hcont
    split
    · refine hread (by omega) fun b2 hb2 => ?_
      split
      · exact hread (by omega) fun d0 _ => hread (by omega) fun d1 _ => ⟨_, rfl⟩
      · exact ⟨_, rfl⟩
    · split
      · refine hread (by omega) fun b2 hb2 => ?_
        split
        · rename_i hlong
          have hN : 4 ≤ declaredN s := by rwa [declaredN, byteAt_of_aduRead hb2]
          exact hread (by omega) fun d0 _ => hread (by omega) fun d1 _ => hread (by omega) fun d2 _ =>
            hread (by omega) fun d3 _ => ⟨_, rfl⟩
        · exact ⟨_, rfl⟩
      · exact ⟨_, rfl⟩

/-- In a state of the invariant the row of the phase goes on (the rows that access no byte do so in every state), or
refuses a second SETUP. -/
theorem exec_goesOn_or_refuses (h : Inv s) : GoesOn (exec (phaseInstr s.phase) s) ∨
    (exec (phaseInstr s.phase) s = .refused .secondSetup ∧ SecondSetupOffered s) := by
  cases hp : s.phase
  case idle => exact execIdle_goesOn_or_refuses hp
  case txWrite => exact .inl (h.txWrite_goesOn hp)
  case rxPoll => exact .inl (h.rxPoll_goesOn hp)
  case rxHeader => exact .inl (h.rxHeader_goesOn hp)
  case crcCheck => exact .inl (h.crcCheck_goesOn hp)
  case decode => exact .inl (h.decode_goesOn hp)
  case setupCfg | txDrain | rxArm | rxDeadline | respond =>
    left
    simp only [phaseInstr, exec, execSetupCfg, execTxDrain, execRxArm, execRxDeadline, execRespond]
    split <;> exact ⟨_, rfl⟩
  case build | txAssert | txRelease | fault => exact .inl ⟨_, rfl⟩

theorem perform_goesOn_or_refuses (h : Inv s) :
    GoesOn (perform s) ∨ (perform s = .refused .secondSetup ∧ SecondSetupOffered s) := by
  cases hw : s.env.wire with
  | nil =>
    rw [perform_of_wire_nil hw]
    exact exec_goesOn_or_refuses h
  | cons f rest => exact .inl ⟨_, perform_of_wire_cons hw⟩

theorem step_goesOn_or_refuses (h : Inv s) :
    GoesOn (step s) ∨ (step s = .refused .secondSetup ∧ SecondSetupOffered s) := by
  unfold step
  split
  · exact .inl ⟨_, rfl⟩
  · exact perform_goesOn_or_refuses (h.withEnv (dropRst s).env)
  · exact perform_goesOn_or_refuses h

end GoesOn

/-- Settles O40: the step goes on, or it is the refusal of a second SETUP. -/
theorem invExcludesFaults : Obligations.InvExcludesFaults := by
  intro s h
  obtain ⟨t, ht⟩ | ⟨hrefused, hsetup⟩ := step_goesOn_or_refuses h
  · rw [ht]
    exact ⟨nofun, nofun⟩
  · rw [hrefused]
    exact ⟨nofun, fun r hr => ⟨(Host.Outcome.refused.inj hr).symm, hsetup⟩⟩

/-! ### Who writes the buffer -/

section Writers
variable {s t : State} {k : Nat}

theorem aduRead_of_exec_build (h : exec .build s = .next t) (hk : 8 ≤ k) : aduRead t.adu k = aduRead s.adu k := by
  cases h
  show aduRead (aduWriteList s.adu 0 _) k = _
  rw [aduRead_staged, if_neg (Nat.not_lt.2 hk)]

theorem aduRead_of_exec_rxPoll (h : exec .rxPoll s = .next t) (hk : k ≠ s.t.cursor.toNat) :
    aduRead t.adu k = aduRead s.adu k := by
  obtain ⟨-, rfl⟩ | ⟨rest, -, rfl⟩ | ⟨b, rest, -, hb⟩ := execRxPoll_next h
  · rfl
  · rfl
  · obtain ⟨-, rfl⟩ | ⟨-, rfl⟩ := storeByte_next hb
    · rfl
    · exact aduRead_aduWrite_ne s.adu b hk

end Writers

/-- Settles O44: BUILD and RX_POLL by the bytes they store, every other row by its frame. -/
theorem writersOfTheBuffer : Obligations.WritersOfTheBuffer := by
  intro i s t h
  refine ⟨fun hbuild hpoll => ?_, ?_, ?_⟩
  · have hf : t.adu = (written i s t).adu := congrArg State.adu (exec_frame h)
    cases i with
    | build => exact absurd rfl hbuild
    | rxPoll => exact absurd rfl hpoll
    | _ => exact hf
  · rintro rfl k hk
    exact aduRead_of_exec_build h hk
  · rintro rfl k hk
    exact aduRead_of_exec_rxPoll h hk

/-! ### What crosses the link and what is sent -/

/-- Settles O57: the step is the delivery of the frame, and the two directions have their equations. -/
theorem aFrameCrossesInOneStep : Obligations.AFrameCrossesInOneStep := by
  intro s ⟨dir, bytes⟩ rest hr hw
  have hstep : step s = .next (deliver dir bytes s) := by rw [step_of_rst_nil hr, perform_of_wire_cons hw]
  have htail : s.env.wire.tail = rest := by rw [hw, List.tail_cons]
  rw [hstep]
  refine ⟨?_, ?_, ?_⟩
  · rintro rfl hpre
    rw [deliver_toSlave, if_pos (List.isPrefixOf_iff_prefix.2 hpre), htail]
  · rintro rfl hpre
    rw [deliver_toSlave, if_neg (mt List.isPrefixOf_iff_prefix.1 hpre), htail]
  · rintro rfl
    rw [deliver_fromSlave, htail]

section Sent
variable {s t : State}

/-- Reset sends nothing: it at most drops `tx_en`. -/
theorem txBytes_resetBlock (s : State) : txBytes (resetBlock s).trace = txBytes s.trace := by
  unfold resetBlock
  dsimp only
  split <;> simp

theorem deliver_trace (dir : Direction) (bytes : List Byte) (s : State) : (deliver dir bytes s).trace = s.trace := by
  cases dir with
  | toSlave => rw [deliver_toSlave]
  | fromSlave => rfl

/-- Of all rows only TX_WRITE sends, and it sends the byte at its index. -/
theorem exec_txBytes {i : Instr} (h : exec i s = .next t) : txBytes t.trace = txBytes s.trace ∨
    (i = .txWrite ∧ ∃ b, aduRead s.adu s.t.txIdx.toNat = some b ∧ txBytes t.trace = txBytes s.trace ++ [b]) := by
  have hf : t.trace = (written i s t).trace := congrArg State.trace (exec_frame h)
  cases i with
  | txWrite =>
    obtain ⟨-, rfl⟩ | ⟨rest, b, -, -, hb, rfl⟩ := execTxWrite_next h
    · exact .inl rfl
    · exact .inr ⟨rfl, b, hb, by simp⟩
  | setupCfg => obtain ⟨-, rfl⟩ | ⟨a, rest, -, rfl⟩ := execSetupCfg_next h <;> simp
  | txAssert | txRelease =>
    cases h
    by_cases hp : s.cfg.txenPresent = true <;> simp [hp]
  | txDrain => obtain ⟨-, rfl⟩ | ⟨a, rest, -, rfl⟩ := execTxDrain_next h <;> simp
  | rxArm => obtain ⟨-, rfl⟩ | ⟨now, rest, -, rfl⟩ := execRxArm_next h <;> simp
  | rxPoll =>
    obtain ⟨-, rfl⟩ | ⟨rest, -, rfl⟩ | ⟨b, rest, -, hb⟩ := execRxPoll_next h
    · simp
    · simp
    · obtain ⟨-, rfl⟩ | ⟨-, rfl⟩ := storeByte_next hb <;> simp
  | rxDeadline => obtain ⟨-, rfl⟩ | ⟨now, rest, st, -, -, rfl⟩ := execRxDeadline_next h <;> simp
  | respond => obtain ⟨-, rfl⟩ | ⟨rest, -, rfl⟩ := execRespond_next h <;> simp
  | _ => exact .inl (congrArg txBytes hf)

theorem phaseInstr_eq_txWrite {p : Phase} : phaseInstr p = .txWrite ↔ p = .txWrite := by
  cases p <;> simp [phaseInstr]

theorem perform_txBytes (h : perform s = .next t) : txBytes t.trace = txBytes s.trace ∨
    (s.phase = .txWrite ∧ s.env.wire = [] ∧
      ∃ b, aduRead s.adu s.t.txIdx.toNat = some b ∧ txBytes t.trace = txBytes s.trace ++ [b]) := by
  cases hw : s.env.wire with
  | nil =>
    rw [perform_of_wire_nil hw] at h
    exact (exec_txBytes h).imp_right fun ⟨hi, hsent⟩ => ⟨phaseInstr_eq_txWrite.1 hi, rfl, hsent⟩
  | cons f rest =>
    rw [perform_of_wire_cons hw] at h
    cases h
    exact .inl (congrArg txBytes (deliver_trace _ _ s))

end Sent

/-- Settles O58: reset and frames send nothing, and of the phases only TX_WRITE does. -/
theorem onlyTxWriteSends : Obligations.OnlyTxWriteSends := by
  intro s t h
  obtain ⟨-, -, rfl⟩ | ⟨-, -, h⟩ | ⟨-, h⟩ := step_next h
  · exact .inl (txBytes_resetBlock s)
  · exact perform_txBytes (s := dropRst s) h
  · exact perform_txBytes h

end Sys2Proof.Machine
end

section
/-! PROOFS. The encodings (spec 30_encoding R80 to R94): per format, decoding undoes encoding and encoding undoes
decoding; the command words and the command port; the frames as bytes on the link (R84, R86, R87; 20_memory R72, R73). -/

namespace Sys2Proof.Machine

/-! ### Fields: the halves of a 16-bit field, one-bit operands, the function code with its exception bit -/

@[simp] theorem hi8_append_lo8 (v : Half) : hi8 v ++ lo8 v = v := BitVec.extractLsb'_append_extractLsb'

theorem hi8_eq_shift (v : Half) : hi8 v = (v >>> 8).setWidth 8 := BitVec.setWidth_ushiftRight_eq_extractLsb.symm

theorem lo8_eq_setWidth (v : Half) : lo8 v = v.setWidth 8 := (BitVec.setWidth_eq_extractLsb' (by decide)).symm

theorem decodeBit_eq_ok {b : Byte} {v : Bool} : decodeBit b = .ok v ↔ encodeBit v = b := by
  constructor
  · intro h
    unfold decodeBit at h
    split at h
    · next h0 => cases h; exact h0.symm
    · split at h
      · next h1 => cases h; exact h1.symm
      · cases h
  · rintro rfl
    cases v <;> rfl

@[simp] theorem decodeBit_encodeBit (v : Bool) : decodeBit (encodeBit v) = .ok v := decodeBit_eq_ok.2 rfl

theorem bit7_exceptionCode (f : BitVec 7) : (1#1 ++ f : Byte).getLsbD 7 = true := by
  rw [BitVec.getLsbD_append]
  rfl

theorem exceptionCode_eq_or (f : BitVec 7) : (1#1 ++ f : Byte) = 0x80 ||| f.setWidth 8 := by
  revert f
  decide

/-! ### Phases -/

theorem encode_phaseInstr (p : Phase) : encode (phaseInstr p) = .phase (phaseCode p) := by cases p <;> rfl

theorem phaseCode_of_phaseOfCode {code : BitVec 4} {p : Phase} (h : phaseOfCode code = some p) :
    phaseCode p = code := by
  simpa using List.find?_some h

theorem encode_of_decode_phase {code : BitVec 4} {i : Instr} (h : decode (.phase code) = .ok i) :
    encode i = .phase code := by
  simp only [decode] at h
  split at h
  · next p hp =>
    cases h
    rw [encode_phaseInstr, phaseCode_of_phaseOfCode hp]
  · cases h

/-! ### Frames -/

theorem decodeRequest_requestBytes (slave : Byte) (addr : Half) (count lo hi : Byte) :
    decodeRequest (requestBytes slave addr count lo hi) = .ok (.reqRdhr slave addr count lo hi) := by
  simp [decodeRequest, requestBytes]

/-- The byte count says where the data end and the CRC begins (R86, R88). -/
theorem decodeResponse_normalBytes {c : Byte} {data : List Byte} (hlen : data.length = (declaredCount c).toNat)
    (r lo hi : Byte) : decodeResponse (normalBytes r c data lo hi) = .ok (.rspNormal r c data lo hi) := by
  simp [decodeResponse, normalBytes, ← hlen]

theorem decodeResponse_exceptionBytes (r : Byte) (f : BitVec 7) (e lo hi : Byte) :
    decodeResponse (exceptionBytes r f e lo hi) = .ok (.rspException r f e lo hi) := by
  simp only [decodeResponse, exceptionBytes, bit7_exceptionCode, if_true, BitVec.setWidth_append_eq_right]

theorem encode_of_decodeRequest {bytes : List Byte} {i : Instr} (h : decodeRequest bytes = .ok i) :
    encode i = .adu .toSlave bytes := by
  unfold decodeRequest at h
  split at h
  · split at h
    · next hfixed =>
      obtain ⟨rfl, rfl⟩ := hfixed
      cases h
      simp [encode, requestBytes]
    · cases h
  · cases h

theorem encode_of_decodeResponse {bytes : List Byte} {i : Instr} (h : decodeResponse bytes = .ok i) :
    encode i = .adu .fromSlave bytes := by
  unfold decodeResponse at h
  split at h
  · split at h
    · next hexc =>
      split at h
      · cases h
        rw [encode, exceptionBytes, append_setWidth_of_bit7 hexc]
      · cases h
    · split at h
      · next hf =>
        subst hf
        split at h
        · next hcrc =>
          cases h
          rw [encode, normalBytes, ← hcrc, List.take_append_drop]
        · cases h
      · cases h
  · cases h

/-! ### Operand lists -/

theorem encode_of_decodeFunc {op : FuncOp} {operands : List Byte} {i : Instr} (h : decodeFunc op operands = .ok i) :
    encode i = .func op operands := by
  unfold decodeFunc at h
  split at h
  case h_1 | h_2 | h_3 =>
    cases h
    simp [encode]
  case h_4 d0 d1 be =>
    cases hbe : decodeBit be with
    | error e => simp [hbe, Except.map] at h
    | ok e =>
      rw [hbe] at h
      cases h
      rw [encode, decodeBit_eq_ok.1 hbe]
  case h_5 =>
    split at h
    · next hbe hsw =>
      cases h
      rw [encode, decodeBit_eq_ok.1 hbe, decodeBit_eq_ok.1 hsw]
    · cases h
  case h_6 => cases h

/-! ### Command words -/

theorem portOfWord_rdhrWord (slave : Byte) (addr : Half) (count : Byte) :
    portOfWord (true :: (bitsOf 8 slave.toNat ++ bitsOf 16 addr.toNat ++ bitsOf 8 count.toNat)) =
      .ok (rdhrPort slave addr count) := by
  simp [portOfWord, List.drop_append, List.drop_of_length_le]

theorem portOfWord_setupWord (txen : Bool) (ms : Word) (be sw : Bool) (line : BitVec Config.lcw) :
    portOfWord (false :: txen :: (bitsOf 32 ms.toNat ++ (be :: sw :: bitsOf Config.lcw line.toNat))) =
      .ok (setupPort txen ms be sw line) := by
  simp [portOfWord]

theorem decodeCmdWord_wordOfPort (p : CmdPort) : decodeCmdWord (wordOfPort p) = .ok (decodeCmd p) := by
  by_cases h : p.op = 1
  · rw [decodeCmdWord, wordOfPort, if_pos h, portOfWord_rdhrWord, decodeCmd, if_pos h]
    rfl
  · rw [decodeCmdWord, wordOfPort, if_neg h, portOfWord_setupWord, decodeCmd, if_neg h]
    rfl

theorem length_wordOfPort (p : CmdPort) : (wordOfPort p).length = if p.op = 1 then 33 else 36 + Config.lcw := by
  unfold wordOfPort
  split
  · simp
  · simp only [List.length_cons, List.length_append, length_bitsOf]
    omega

/-! ### The obligations -/

/-- Settles O1, row by row: a command's ports and the bytes of CRC16 are read as they stand, the other operand lists
come back by their halves and bits, a phase by its code, a frame by its bytes. -/
theorem decodeInvertsEncode : Obligations.DecodeInvertsEncode := by
  intro i hwf
  cases i with
  | setup | rdhr | crc16 => rfl
  | crc16Update | buildReadRequest => simp only [encode, decode, decodeFunc, hi8_append_lo8]
  | decode16 | decode32 => simp only [encode, decode, decodeFunc, decodeBit_encodeBit, Except.map]
  | idle | setupCfg | build | txAssert | txWrite | txDrain | txRelease | rxArm | rxPoll | rxHeader | rxDeadline
  | crcCheck | decode | respond | fault => decide
  | reqRdhr slave addr count lo hi => exact decodeRequest_requestBytes slave addr count lo hi
  | rspNormal r c data lo hi => exact decodeResponse_normalBytes (of_decide_eq_true hwf) r lo hi
  | rspException r f e lo hi => exact decodeResponse_exceptionBytes r f e lo hi

/-- Settles O2, one format after the other. -/
theorem encodeInvertsDecode : Obligations.EncodeInvertsDecode := by
  intro e i h hcmd
  cases e with
  | cmd port => exact absurd rfl (hcmd port)
  | func op operands => exact encode_of_decodeFunc h
  | phase code => exact encode_of_decode_phase h
  | adu dir bytes =>
    cases dir with
    | toSlave => exact encode_of_decodeRequest h
    | fromSlave => exact encode_of_decodeResponse h

/-- Settles O3: `cmd_op` says which of the two words it is. -/
theorem commandWordsStandForThePorts : Obligations.CommandWordsStandForThePorts := fun p =>
  ⟨decodeCmdWord_wordOfPort p, length_wordOfPort p⟩

/-- Settles O4: a phase's code decodes to its row, and no phase has the code 15. -/
theorem phaseCodesAreTheFifteen : Obligations.PhaseCodesAreTheFifteen := by
  unfold Obligations.PhaseCodesAreTheFifteen
  decide

/-- Settles O5: the SETUP word is that of its port whatever the line word is; the other words are closed. -/
theorem specWordsDecode : Obligations.SpecWordsDecode := by
  refine ⟨by decide, by decide, fun line => ?_, by decide, by decide, by decide, by decide, by decide⟩
  exact decodeCmdWord_wordOfPort (setupPort true 1000 true false line)

/-- Settles O32: each frame row is the delivery of its bytes. -/
theorem framesCrossTheLink : Obligations.FramesCrossTheLink := by
  refine ⟨fun s slave addr count lo hi => ?_, fun s r c data lo hi => ?_, fun s r f e lo hi => ?_⟩
  · intro frame
    have hexec : exec (.reqRdhr slave addr count lo hi) s = .next (deliver .toSlave frame s) := by
      rw [exec, execReqRdhr, requestBytes, hi8_eq_shift, lo8_eq_setWidth]
    rw [hexec, deliver_toSlave]
    constructor
    · intro hpre
      rw [if_pos (List.isPrefixOf_iff_prefix.2 hpre)]
    · intro hpre
      rw [if_neg (mt List.isPrefixOf_iff_prefix.1 hpre)]
  · rfl
  · rw [exec, execRspException, deliver_fromSlave, exceptionBytes, exceptionCode_eq_or]
    rfl

end Sys2Proof.Machine
end

section
/-! PROOFS. The CRC Engine (spec 40_crc_engine R100 to R106): a shift step loses nothing because the constant has bit 15
set, so neither does an update; low bits that are zero are shifted out unchanged, which gives the residue law. -/

namespace Sys2Proof.Machine

/-! ### One shift step and several -/

theorem crcShift_of_bit0_clear {c : Half} (h : c.getLsbD 0 = false) : crcShift c = c >>> 1 :=
  if_neg (Bool.eq_false_iff.1 h)

theorem crcShift_of_bit0_set {c : Half} (h : c.getLsbD 0 = true) : crcShift c = (c >>> 1) ^^^ crcPoly := if_pos h

/-- The bit shifted out stands in bit 15 of the result, where the shifted value has 0 and the constant 1. -/
theorem crcShift_getLsbD_15 (c : Half) : (crcShift c).getLsbD 15 = c.getLsbD 0 := by
  cases h : c.getLsbD 0 with
  | false => simp [crcShift_of_bit0_clear h]
  | true => simp [crcShift_of_bit0_set h, crcPoly]

theorem crcShift_injective : Function.Injective crcShift := by
  intro c d h
  have hbit : c.getLsbD 0 = d.getLsbD 0 := by rw [← crcShift_getLsbD_15, h, crcShift_getLsbD_15]
  have hshift : c >>> 1 = d >>> 1 := by
    cases hd : d.getLsbD 0 with
    | false => rwa [crcShift_of_bit0_clear hd, crcShift_of_bit0_clear (hbit.trans hd)] at h
    | true =>
      rw [crcShift_of_bit0_set hd, crcShift_of_bit0_set (hbit.trans hd)] at h
      exact (BitVec.xor_left_inj _).1 h
  apply BitVec.eq_of_getLsbD_eq
  intro i hi
  cases i with
  | zero => exact hbit
  | succ i => simpa [Nat.add_comm] using congrArg (·.getLsbD i) hshift

theorem crcShifts_injective (n : Nat) : Function.Injective (crcShifts n) := by
  induction n with
  | zero => exact fun _ _ h => h
  | succ n ih => exact ih.comp crcShift_injective

/-- While the low bits are zero the constant does not enter. -/
theorem crcShifts_of_low_clear {n : Nat} {c : Half} (h : ∀ i < n, c.getLsbD i = false) : crcShifts n c = c >>> n := by
  induction n generalizing c with
  | zero => simp [crcShifts]
  | succ n ih =>
    rw [crcShifts, crcShift_of_bit0_clear (h 0 n.succ_pos), ih, ← BitVec.shiftRight_add, Nat.add_comm]
    intro i hi
    simpa [Nat.add_comm] using h (i + 1) (Nat.succ_lt_succ hi)

@[simp] theorem crcShifts_zero (n : Nat) : crcShifts n 0#16 = 0#16 := by
  rw [crcShifts_of_low_clear (by simp), BitVec.zero_ushiftRight]

/-- The steps as the loop of R101 writes them, over any list of as many counts. -/
theorem foldl_crcShift {α : Type} (l : List α) (c : Half) : l.foldl (fun c _ => crcShift c) c = crcShifts l.length c := by
  induction l generalizing c with
  | nil => rfl
  | cons _ _ ih => exact ih (crcShift c)

/-! ### The update -/

/-- The zero extension of R101 by its bits. -/
theorem setWidth_eq_zero_append (b : Byte) : b.setWidth 16 = 0#8 ++ b := BitVec.setWidth_eq_append (by decide)

theorem crc16Update_injective_crc (b : Byte) : Function.Injective fun crc => crc16Update crc b := fun _ _ h =>
  (BitVec.xor_left_inj _).1 (crcShifts_injective 8 h)

theorem crc16Update_injective_byte (crc : Half) : Function.Injective fun b => crc16Update crc b := by
  intro a b h
  have hwide : a.setWidth 16 = b.setWidth 16 := (BitVec.xor_right_inj _).1 (crcShifts_injective 8 h)
  simpa using congrArg (BitVec.setWidth 8) hwide

/-- The low byte of the CRC cancels itself, and eight steps shift the high byte down unchanged (R105). -/
theorem crc16Update_append_lo (hi lo : Byte) : crc16Update (hi ++ lo) lo = hi.setWidth 16 := by
  have hxor : (hi ++ lo : Half) ^^^ lo.setWidth 16 = hi ++ 0#8 := by
    rw [setWidth_eq_zero_append, BitVec.xor_append, BitVec.xor_zero, BitVec.xor_self]
  have hlow : ∀ i < 8, (hi ++ 0#8 : Half).getLsbD i = false := fun i hlt => by simp [getLsbD_halfOfBytes, hlt]
  rw [crc16Update, hxor, crcShifts_of_low_clear hlow]
  apply BitVec.eq_of_getLsbD_eq
  intro i hlt
  simp [getLsbD_halfOfBytes, hlt]

/-- Only the byte that the CRC consists of brings it to zero. -/
theorem crc16Update_eq_zero {crc : Half} {b : Byte} : crc16Update crc b = 0 ↔ crc = b.setWidth 16 := by
  have hself : crc16Update (b.setWidth 16) b = 0 := by simp [crc16Update]
  rw [← hself]
  exact (crc16Update_injective_crc b).eq_iff

/-- Two bytes bring a CRC to zero exactly when they are its low byte and its high byte, in that order. -/
theorem crc16Update_crc16Update_eq_zero {crc : Half} {lo hi : Byte} :
    crc16Update (crc16Update crc lo) hi = 0 ↔ crc = hi ++ lo := by
  rw [crc16Update_eq_zero, ← crc16Update_append_lo hi lo]
  exact (crc16Update_injective_crc lo).eq_iff

/-! ### The fold -/

theorem crc16_append (m bytes : List Byte) : crc16 (m ++ bytes) = bytes.foldl crc16Update (crc16 m) :=
  List.foldl_append

theorem crc16_append_pair_eq_zero {m : List Byte} {lo hi : Byte} : crc16 (m ++ [lo, hi]) = 0 ↔ crc16 m = hi ++ lo := by
  rw [crc16_append]
  exact crc16Update_crc16Update_eq_zero

theorem crc16_append_crcTrailer (m : List Byte) : crc16 (m ++ crcTrailer m) = 0 :=
  crc16_append_pair_eq_zero.2 (hi8_append_lo8 _).symm

theorem pair_eq_crcTrailer {m : List Byte} {lo hi : Byte} : [lo, hi] = crcTrailer m ↔ crc16 m = hi ++ lo := by
  constructor
  · intro h
    obtain ⟨rfl, rfl⟩ : lo = lo8 (crc16 m) ∧ hi = hi8 (crc16 m) := by simpa [crcTrailer] using h
    exact (hi8_append_lo8 _).symm
  · intro h
    simp [crcTrailer, h]

/-- The comparison of R146 is the test of the residue. -/
theorem trailerMatches_iff {bytes : List Byte} (h : 2 ≤ bytes.length) : trailerMatches bytes = true ↔ crc16 bytes = 0 := by
  obtain ⟨lo, hi, hpair⟩ : ∃ lo hi, bytes.drop (bytes.length - 2) = [lo, hi] :=
    List.length_eq_two.1 (by rw [List.length_drop]; omega)
  have hsplit : crcBody bytes ++ [lo, hi] = bytes := by rw [crcBody, ← hpair, List.take_append_drop]
  calc trailerMatches bytes = true
    _ ↔ [lo, hi] = crcTrailer (crcBody bytes) := by rw [trailerMatches, decide_eq_true_iff, hpair]
    _ ↔ crc16 (crcBody bytes) = hi ++ lo := pair_eq_crcTrailer
    _ ↔ crc16 (crcBody bytes ++ [lo, hi]) = 0 := crc16_append_pair_eq_zero.symm
    _ ↔ crc16 bytes = 0 := by rw [hsplit]

/-! ### The obligations of the family -/

/-- Settles O7: an injective update of 16-bit values is a bijection. -/
theorem crcUpdateLosesNothing : Obligations.CrcUpdateLosesNothing :=
  ⟨fun b => Finite.injective_iff_bijective.1 (crc16Update_injective_crc b), crc16Update_injective_byte⟩

/-- Settles O9: the trailer is what brings the CRC to zero, and nothing else does. -/
theorem crcResidueIsZero : Obligations.CrcResidueIsZero :=
  ⟨crc16_append_crcTrailer, fun _ => trailerMatches_iff⟩

/-- Settles O6: the loop's body is one shift step. -/
theorem crcUpdateIsEightShiftXorSteps : Obligations.CrcUpdateIsEightShiftXorSteps := by
  intro s crc b
  have hloop : (List.range 8).foldl (fun c _ => crcShift c) (crc ^^^ (0#8 ++ b)) = crc16Update crc b := by
    rw [foldl_crcShift, List.length_range, crc16Update, setWidth_eq_zero_append]
  exact congrArg (fun v => Host.Outcome.next { s with fuOut := some (.crc v) }) hloop.symm

/-- Settles O8: the row returns the fold, and a fold over one byte more is one update more. -/
theorem crcFoldsTheBytesFromTheSeed : Obligations.CrcFoldsTheBytesFromTheSeed :=
  ⟨fun _ _ => rfl, rfl, fun bytes b => crc16_append bytes [b]⟩

end Sys2Proof.Machine
end

section
/-! PROOFS. The Frame Builder (spec 41_frame_builder R111 to R113): the request carries its operands unchanged, so the
frame determines them; phase BUILD stages it. -/

namespace Sys2Proof.Machine

/-- The request by its bytes, as the pseudocode of R111 writes them. -/
theorem buildReadRequest_eq (slave : Byte) (addr : Half) (count : Byte) :
    let body : List Byte := [slave, 0x03, (addr >>> 8).setWidth 8, addr.setWidth 8, 0x00, count]
    buildReadRequest slave addr count = body ++ [(crc16 body).setWidth 8, (crc16 body >>> 8).setWidth 8] := by
  simp only [buildReadRequest, requestBody, crcTrailer, functionCode, hi8_eq_shift, lo8_eq_setWidth]

/-- Bytes 0, 2, 3 and 5 of the frame carry the operands (R111). -/
theorem buildReadRequest_inj {slave slave' count count' : Byte} {addr addr' : Half}
    (h : buildReadRequest slave addr count = buildReadRequest slave' addr' count') :
    slave = slave' ∧ addr = addr' ∧ count = count' := by
  have hbody : requestBody slave addr count = requestBody slave' addr' count' := (List.append_inj h rfl).1
  obtain ⟨hslave, hhi, hlo, hcount⟩ :
      slave = slave' ∧ hi8 addr = hi8 addr' ∧ lo8 addr = lo8 addr' ∧ count = count' := by
    simpa [requestBody] using hbody
  have haddr : addr = addr' := by rw [← hi8_append_lo8 addr, hhi, hlo, hi8_append_lo8]
  exact ⟨hslave, haddr, hcount⟩

/-- Settles O10: the row returns the request, and the request's bytes give back its operands. -/
theorem buildReadRequestGivesTheFrame : Obligations.BuildReadRequestGivesTheFrame := by
  refine ⟨fun s slave addr count => ?_, fun a b h => ?_⟩
  · intro body
    rw [exec, execBuildReadRequest, returns, buildReadRequest_eq]
  · obtain ⟨hslave, haddr, hcount⟩ := buildReadRequest_inj h
    exact Prod.ext hslave (Prod.ext haddr hcount)

/-- Settles O11: the phase is one run of eight writes from index 0. -/
theorem buildStagesTheRequest : Obligations.BuildStagesTheRequest := by
  intro s
  refine ⟨_, rfl, fun k hk => ?_, fun k hk => aduRead_of_exec_build rfl hk, fun hwf => ?_, _, rfl⟩
  · exact (aduRead_staged ..).trans (if_pos hk)
  · exact aduWf_aduWriteList hwf (by simp [aduCap])

end Sys2Proof.Machine
end

section
/-! PROOFS. The host commands and the phases of the transmit half (spec 42_commands_and_transmit R120 to R129): what each
does where it goes on, with the command offered and the answer of its primitive there. -/

namespace Sys2Proof.Machine

/-! ### The two commands and IDLE -/

section Commands
variable {s : State}

theorem acceptSetup_first (txen : Bool) (ms : Word) (be sw : Bool) (line : BitVec Config.lcw)
    (h : s.cfg.setupSeen = false) :
    acceptSetup txen ms be sw line s =
      .next { takeCmd s with cfg := ⟨line, txen, ms, be, sw, s.cfg.configured, true⟩, phase := .setupCfg } := by
  simp [acceptSetup, h]

theorem acceptSetup_second (txen : Bool) (ms : Word) (be sw : Bool) (line : BitVec Config.lcw)
    (h : s.cfg.setupSeen = true) : acceptSetup txen ms be sw line s = .refused .secondSetup := by
  rw [acceptSetup, if_pos h]

theorem exec_setup_of_idle (txen : Bool) (ms : Word) (be sw : Bool) (line : BitVec Config.lcw) (hp : s.phase = .idle) :
    exec (.setup txen ms be sw line) s = acceptSetup txen ms be sw line s := if_pos hp

theorem exec_rdhr_of_idle (slave : Byte) (addr : Half) (count : Byte) (hp : s.phase = .idle) :
    exec (.rdhr slave addr count) s = acceptRdhr slave addr count s := if_pos hp

end Commands

/-- Settles O14: in IDLE the row is the acceptance, and `cfg.setup_seen` decides. -/
theorem setupIsAcceptedOncePerReset : Obligations.SetupIsAcceptedOncePerReset := by
  intro s txen ms be sw line hp
  rw [exec_setup_of_idle txen ms be sw line hp]
  exact ⟨fun h => acceptSetup_first txen ms be sw line h, fun h => acceptSetup_second txen ms be sw line h⟩

/-- Settles O15: in IDLE the row is the acceptance, and `cfg.configured` decides. -/
theorem rdhrStartsOrFailsFast : Obligations.RdhrStartsOrFailsFast := by
  intro s slave addr count hp
  rw [exec_rdhr_of_idle slave addr count hp]
  cases hc : s.cfg.configured with
  | false => exact ⟨_, acceptRdhr_unconfigured slave addr count hc, rfl, fun _ => ⟨rfl, rfl⟩, nofun, rfl⟩
  | true => exact ⟨_, acceptRdhr_configured slave addr count hc, rfl, nofun, fun _ => ⟨rfl, rfl⟩, rfl⟩

/-- `cmd_op` selects by 0 as well as by 1 (R81). -/
theorem decodeCmd_eq (c : CmdPort) :
    decodeCmd c = if c.op = 0 then .setup c.txenPresent c.timeoutMs c.bigEndian c.regSwap c.lineCfg
      else .rdhr c.slaveId c.regAddr c.regCount := by
  rcases BitVec.eq_zero_or_eq_one c.op with h | h <;> simp [decodeCmd, h]

/-- Settles O17: without an offer IDLE is held; an offered command is performed by its own row. -/
theorem idleWaitsOrAccepts : Obligations.IdleWaitsOrAccepts := by
  intro s hp
  refine ⟨decide_eq_true hp, by simp [outputs, hp], fun hc => ?_, fun c rest hc => ?_⟩
  · simp only [exec, execIdle, hc]
    exact hold_self hp
  · rw [← exec_decodeCmd_of_idle hp hc, decodeCmd_eq]
    split <;> rfl

/-! ### Completing and answering a command; FAULT -/

/-- Settles O18: with an answer there, the phase takes it. -/
theorem setupCfgTakesTheAnswer : Obligations.SetupCfgTakesTheAnswer := by
  intro s a rest ha
  simp only [exec, execSetupCfg, ha]
  exact ⟨_, rfl, decide_eq_true_iff, decide_eq_true_iff, rfl⟩

/-- Settles O19: with `rsp_ready` sampled 1 the phase hands over what the response port shows. -/
theorem respondDeliversAndGoesIdle : Obligations.RespondDeliversAndGoesIdle := by
  intro s rest hready
  simp only [exec, execRespond, hready, responseOf]

section Faulted
variable {s : State}

theorem outputs_of_fault (hp : s.phase = .fault) :
    outputs s = { cmdReady := false, rspValid := false, tcfgValid := false, txValid := false, rxReady := false,
                  txEn := s.txEn, fault := s.fault } := by simp [outputs, hp]

theorem exec_fault_self (hp : s.phase = .fault) (hf : s.fault = true) : exec .fault s = .next s := by
  show Host.Outcome.next { s with phase := .fault, fault := true } = .next s
  rw [← hp, ← hf]

/-- A state that a step leaves as it is stands for ever. -/
theorem run_of_step_self (h : step s = .next s) (k : Nat) : core.run k s = .next s := by
  induction k with
  | zero => rfl
  | succ k ih => rw [run_succ_of_step h, ih]

theorem step_of_rst_true {rest : List Bool} (hr : s.env.rst = true :: rest) : step s = .next (resetBlock s) := by
  simp only [step, hr]

end Faulted

/-- Settles O20: FAULT is a fixed point of its own row; its outputs are read off the phase, and reset leads to IDLE. -/
theorem faultIsLeftByResetOnly : Obligations.FaultIsLeftByResetOnly := by
  intro s hp hf
  have hself : exec .fault s = .next s := exec_fault_self hp hf
  rw [outputs_of_fault hp]
  refine ⟨hself, rfl, rfl, rfl, rfl, rfl, hf, fun hinv => ?_, fun hr hw => ?_, fun rest hr => ?_⟩
  · simpa [outputs_of_fault hp, transmits] using hinv.txEn_at hp
  · exact run_of_step_self (by rw [step_of_phase hr hw hp, phaseInstr, hself])
  · exact ⟨_, step_of_rst_true hr, rfl, rfl⟩

/-! ### The transmit-enable sequencer -/

/-- Settles O21: the line is driven only where one is configured, and that changes `tx_en` and the trace alone. -/
theorem txAssertRaisesAConfiguredLine : Obligations.TxAssertRaisesAConfiguredLine := by
  intro s
  rw [exec, execTxAssert, driveIfPresent_eq]

/-- Settles O24: as in TX_ASSERT, with the other value. -/
theorem txReleaseDropsAConfiguredLine : Obligations.TxReleaseDropsAConfiguredLine := by
  intro s
  rw [exec, execTxRelease, driveIfPresent_eq]
  rfl

/-- The index of the next byte, as R125 counts it. -/
theorem index_succ_eq (c : BitVec 4) : c + 1 = BitVec.ofNat 4 (c.toNat + 1) := by bv_omega

theorem index_succ_eq_eight {c : BitVec 4} : c + 1 = 8 ↔ c.toNat = 7 := by bv_omega

/-- Settles O22: the byte is there and the transport takes it; the eighth has index 7. -/
theorem txWriteHandsOverOneByte : Obligations.TxWriteHandsOverOneByte := by
  intro s b rest hready hidx hb
  simp only [exec, execTxWrite, hready]
  rw [withAdu_eq _ hidx hb]
  simp only [index_succ_eq_eight]
  rw [index_succ_eq]

/-- Settles O23: whatever the answer is, the phase only records it. -/
theorem txDrainGoesOnEitherWay : Obligations.TxDrainGoesOnEitherWay := by
  intro s a rest ha
  simp only [exec, execTxDrain, ha]

end Sys2Proof.Machine
end

section
/-! PROOFS. The successor table (spec 42_commands_and_transmit R131): each row of a phase moves the sequencer as its line of
the table says. -/

namespace Sys2Proof.Machine

theorem op_eq_zero {c : CmdPort} (h : c.op ≠ 1) : c.op = 0 := (BitVec.eq_zero_or_eq_one c.op).resolve_right h

section Successors
variable {s t : State}

/-- IDLE waits, or goes where the accepted command begins. -/
theorem successorOk_idle (hp : s.phase = .idle) (h : exec .idle s = .next t) : SuccessorOk s t := by
  simp only [SuccessorOk, hp]
  obtain ⟨hc, rfl⟩ | ⟨c, rest, hc, ⟨ho, ha⟩ | ⟨ho, ha⟩⟩ := execIdle_next h
  · exact .inl ⟨rfl, hc⟩
  · cases hconf : s.cfg.configured with
    | false =>
      rw [acceptRdhr_unconfigured _ _ _ (by exact hconf)] at ha
      cases ha
      exact .inr (.inr (.inl ⟨rfl, rfl, c, rest, hc, ho⟩))
    | true =>
      rw [acceptRdhr_configured _ _ _ (by exact hconf)] at ha
      cases ha
      exact .inr (.inr (.inr ⟨rfl, rfl, c, rest, hc, ho⟩))
  · obtain ⟨hseen, rfl⟩ := acceptSetup_next ha
    exact .inr (.inl ⟨rfl, hseen, c, rest, hc, op_eq_zero ho⟩)

theorem successorOk_txWrite (hp : s.phase = .txWrite) (h : exec .txWrite s = .next t) : SuccessorOk s t := by
  simp only [SuccessorOk, hp]
  obtain ⟨hready, rfl⟩ | ⟨rest, b, hready, -, -, rfl⟩ := execTxWrite_next h
  · split
    · rename_i rest heq
      simp [heq] at hready
    · rfl
    · rfl
  · simp only [hready]

/-- RX_POLL goes to FAULT on the eleventh byte and to RX_HEADER on any other answer. -/
theorem successorOk_rxPoll (hp : s.phase = .rxPoll) (h : exec .rxPoll s = .next t) : SuccessorOk s t := by
  simp only [SuccessorOk, hp]
  obtain ⟨hrx, rfl⟩ | ⟨rest, hrx, rfl⟩ | ⟨b, rest, hrx, hb⟩ := execRxPoll_next h
  · simp only [hrx, setPhase_phase]
  · simp only [hrx, setPhase_phase]
  · simp only [hrx]
    obtain ⟨hfull, rfl⟩ | ⟨hroom, rfl⟩ := storeByte_next hb
    · exact (if_pos hfull).symm
    · have hne : s.t.cursor ≠ 10 := by
        intro hfull
        simp [hfull, aduCap] at hroom
      exact (if_neg hne).symm

/-- RX_DEADLINE: the loop test (R145) on the status that the deadline check leaves. -/
theorem successorOk_rxDeadline (hp : s.phase = .rxDeadline) (h : exec .rxDeadline s = .next t) : SuccessorOk s t := by
  simp only [SuccessorOk, hp]
  obtain ⟨hnow, rfl⟩ | ⟨now, rest, st, hnow, -, rfl⟩ := execRxDeadline_next h
  · exact (if_pos hnow).symm
  · simp only [hnow, reduceCtorEq, if_false, loopContinues_iff]

theorem successorOk_respond (hp : s.phase = .respond) (h : exec .respond s = .next t) : SuccessorOk s t := by
  simp only [SuccessorOk, hp]
  obtain ⟨hready, rfl⟩ | ⟨rest, hready, rfl⟩ := execRespond_next h
  · split
    · rename_i rest heq
      simp [heq] at hready
    · rfl
    · rfl
  · simp only [hready]

/-- Every phase goes on as its line of the table says; those not named above have one successor, held or not. -/
theorem successorOk_of_exec (h : exec (phaseInstr s.phase) s = .next t) : SuccessorOk s t := by
  cases hp : s.phase <;> rw [hp] at h
  case idle => exact successorOk_idle hp h
  case txWrite => exact successorOk_txWrite hp h
  case rxPoll => exact successorOk_rxPoll hp h
  case rxDeadline => exact successorOk_rxDeadline hp h
  case respond => exact successorOk_respond hp h
  all_goals simp only [SuccessorOk, hp]
  case setupCfg =>
    obtain ⟨hc, rfl⟩ | ⟨a, rest, hc, rfl⟩ := execSetupCfg_next h <;> simp [hc]
  case txDrain =>
    obtain ⟨hd, rfl⟩ | ⟨a, rest, hd, rfl⟩ := execTxDrain_next h <;> simp [hd]
  case rxArm =>
    obtain ⟨hn, rfl⟩ | ⟨now, rest, hn, rfl⟩ := execRxArm_next h <;> simp [hn]
  case rxHeader => obtain ⟨-, b0, b1, b2, -, -, -, rfl⟩ | ⟨-, rfl⟩ := execRxHeader_next h <;> rfl
  case crcCheck => obtain ⟨-, -, -, bytes, -, rfl⟩ | ⟨-, rfl⟩ := execCrcCheck_next h <;> rfl
  case decode =>
    obtain ⟨v, n, rfl, -⟩ := execDecode_next h
    rfl
  case build | txAssert | txRelease | fault =>
    cases h
    rfl

theorem successorOk_of_perform (hw : s.env.wire = []) (h : perform s = .next t) : SuccessorOk s t := by
  rw [perform_of_wire_nil hw] at h
  exact successorOk_of_exec h

end Successors

/-- Settles O41: with `rst` sampled 0 or not sampled the step is the row of the phase; a sample 1 is the reset. -/
theorem stepFollowsTheSuccessorTable : Obligations.StepFollowsTheSuccessorTable := by
  intro s t h
  obtain ⟨rest, hr, rfl⟩ | ⟨rest, hr, h⟩ | ⟨hr, h⟩ := step_next h
  · exact ⟨fun hno => absurd hr (hno rest), fun _ _ => rfl⟩
  · exact ⟨fun _ hw => successorOk_of_perform (s := dropRst s) hw h, by simp [hr]⟩
  · exact ⟨fun _ hw => successorOk_of_perform hw h, by simp [hr]⟩

end Sys2Proof.Machine
end

section
/-! PROOFS. The two runs from an accepted RDHR (spec 42_commands_and_transmit R122, R134; 20_memory R68, R72): to the response
of an unconfigured block, and through the transmit half of a configured one to the receive loop. -/

namespace Sys2Proof.Machine

section Runs
variable {s t : State}

/-- In IDLE, undisturbed by reset and frames, an offered RDHR is accepted. -/
theorem step_of_rdhr_offered {c : CmdPort} {rest : List CmdPort} (hp : s.phase = .idle) (hr : s.env.rst = [])
    (hw : s.env.wire = []) (hc : s.env.cmds = c :: rest) (ho : c.op = 1) :
    step s = acceptRdhr c.slaveId c.regAddr c.regCount s := by
  rw [step_of_phase hr hw hp, phaseInstr, ← exec_decodeCmd_of_idle hp hc, decodeCmd, if_pos ho,
    exec_rdhr_of_idle _ _ _ hp]

/-- A run goes on after the row of the phase. As a rewrite rule its hypotheses stand as `by exact`, so that they are read
only when the state is found. -/
theorem run_succ_of_exec {p : Phase} (he : exec (phaseInstr p) s = .next t) (hp : s.phase = p) (hr : s.env.rst = [])
    (hw : s.env.wire = []) (k : Nat) : core.run (k + 1) s = core.run k t :=
  run_succ_of_step ((step_of_phase hr hw hp).trans he) k

/-- TX_WRITE hands over the bytes from its index to index 7, one per cycle with `tx_ready` 1, and goes to TX_DRAIN; by
induction on the bytes that follow the first. -/
theorem run_txWrite {b : Byte} {bytes : List Byte} {ready : List Bool} (k : Nat) (hp : s.phase = .txWrite)
    (hr : s.env.rst = []) (hw : s.env.wire = [])
    (hready : s.env.txReady = List.replicate (bytes.length + 1) true ++ ready)
    (hidx : s.t.txIdx.toNat + bytes.length = 7)
    (hread : ∀ i ≤ bytes.length, aduRead s.adu (s.t.txIdx.toNat + i) = (b :: bytes)[i]?) :
    core.run (k + (bytes.length + 1)) s =
      core.run k { s with
        t := { s.t with txIdx := 8 }
        env := { s.env with txReady := ready }
        trace := s.trace ++ (b :: bytes).map .tx
        phase := .txDrain } := by
  induction bytes generalizing s b with
  | nil =>
    have hseven : s.t.txIdx.toNat = 7 := hidx
    have hwrite := txWriteHandsOverOneByte s b _ hready (by omega) (hread 0 (Nat.zero_le _))
    rw [if_pos hseven, hseven] at hwrite
    exact run_succ_of_exec (p := .txWrite) hwrite hp hr hw k
  | cons b' bytes ih =>
    rw [List.length_cons] at hidx
    have hwrite := txWriteHandsOverOneByte s b _ hready (by omega) (hread 0 (Nat.zero_le _))
    rw [if_neg (by omega)] at hwrite
    have hsucc : (BitVec.ofNat 4 (s.t.txIdx.toNat + 1)).toNat = s.t.txIdx.toNat + 1 := by
      rw [BitVec.toNat_ofNat, Nat.mod_eq_of_lt (by omega)]
    refine (run_succ_of_exec (p := .txWrite) hwrite hp hr hw (k + (bytes.length + 1))).trans ?_
    rw [ih (b := b') (by rfl) (by exact hr) (by exact hw) (by rfl)]
    · simp
    · simp only [hsucc]
      omega
    · intro i hi
      simp only [hsucc, Nat.add_assoc, Nat.add_comm 1 i]
      exact hread (i + 1) (Nat.succ_le_succ hi)

end Runs

/-- Settles O47: the acceptance answers at once, and RESPOND hands the answer over. -/
theorem unconfiguredRdhrDoesNoIo : Obligations.UnconfiguredRdhrDoesNoIo := by
  intro s c rest ready hp hconf hr hw hc ho hready
  have haccept := (step_of_rdhr_offered hp hr hw hc ho).trans
    (acceptRdhr_unconfigured c.slaveId c.regAddr c.regCount hconf)
  rw [run_succ_of_step haccept,
    run_succ_of_step (step_respond_of_ready (by rfl) (by exact hr) (by exact hw) (by exact hready))]
  refine ⟨_, rfl, rfl, rfl, rfl, rfl, rfl, ?_⟩
  simp [hc]

theorem exec_build (s : State) :
    exec .build s = .next { s with
      adu := aduWriteList s.adu 0 (buildReadRequest s.t.slaveId s.t.regAddr s.t.regCount)
      t := { s.t with crc := crc16 (requestBody s.t.slaveId s.t.regAddr s.t.regCount) }
      phase := .txAssert } := rfl

theorem exec_rxArm_of_now {s : State} {t0 : Word} {rest : List Word} (h : s.env.now = t0 :: rest) :
    exec .rxArm s = .next { s with
      t := { s.t with startMs := t0, cursor := 0, bytesRemaining := 5 }
      env := { s.env with now := rest }
      trace := s.trace ++ [.now t0]
      phase := .rxPoll } := by
  simp only [exec, execRxArm, h]
  rfl

/-- The event that driving the transmit-enable line makes, where one is configured (R124, R127). -/
def lineEvents (s : State) (v : Bool) : List Event := if s.cfg.txenPresent = true then [.txEn v] else []

/-- The transmit-enable sequencer (R124 to R127) on a staged frame of eight bytes: the line around them, and the drain. -/
theorem run_transmitSequencer {s : State} {frame : List Byte} {ready : List Bool} {a : DrainAnswer}
    {drain : List DrainAnswer} (k : Nat) (hp : s.phase = .txAssert) (hr : s.env.rst = []) (hw : s.env.wire = [])
    (hready : s.env.txReady = List.replicate 8 true ++ ready) (hdrain : s.env.drain = a :: drain)
    (hlen : frame.length = 8) (hread : ∀ i < 8, aduRead s.adu i = frame[i]?) :
    core.run (k + 11) s =
      core.run k { s with
        t := { s.t with txIdx := 8 }
        txEn := if s.cfg.txenPresent = true then false else s.txEn
        env := { s.env with txReady := ready, drain := drain }
        trace := s.trace ++ (lineEvents s true ++ frame.map .tx ++ [.drain a] ++ lineEvents s false)
        phase := .rxArm } := by
  obtain ⟨b, bytes, rfl⟩ := List.exists_cons_of_length_pos (l := frame) (by omega)
  have hseven : bytes.length = 7 := Nat.succ.inj hlen
  rw [run_succ_of_exec (p := .txAssert) (txAssertRaisesAConfiguredLine _) hp hr hw (k + 10),
    show k + 10 = k + 2 + (bytes.length + 1) by rw [hseven],
    run_txWrite (b := b) (ready := ready) (k + 2) (by rfl) (by exact hr) (by exact hw)
      (by rw [hseven]; exact hready) (by simp [hseven]) (fun i hi => by simpa using hread i (by omega)),
    run_succ_of_exec (p := .txDrain) (txDrainGoesOnEitherWay _ a drain (by exact hdrain)) (by rfl) (by exact hr)
      (by exact hw) (k + 1),
    run_succ_of_exec (p := .txRelease) (txReleaseDropsAConfiguredLine _) (by rfl) (by exact hr) (by exact hw) k]
  cases hline : s.cfg.txenPresent <;> simp [lineEvents, hline]

/-- The counters as RX_ARM leaves them, with status OK, are where the loop of R152 starts. -/
theorem abstracts_start {s : State} (hcursor : s.t.cursor = 0) (hremaining : s.t.bytesRemaining = 5)
    (hok : s.t.status = .ok) : Abstracts Loop.start s :=
  ⟨by rw [hcursor]; rfl, Nat.zero_le _, nofun, hremaining, hok⟩

/-- Settles O48: the acceptance, BUILD, the sequencer on the request that BUILD has staged, and RX_ARM. -/
theorem transmitHalfShowsTheTrace : Obligations.TransmitHalfShowsTheTrace := by
  intro s c cmds ready a drain t0 now hp hconf hr hw hc ho hready hdrain hnow
  have haccept := (step_of_rdhr_offered hp hr hw hc ho).trans
    (acceptRdhr_configured c.slaveId c.regAddr c.regCount hconf)
  rw [run_succ_of_step haccept,
    run_succ_of_exec (p := .build) (exec_build _) (by rfl) (by exact hr) (by exact hw),
    run_transmitSequencer (frame := buildReadRequest c.slaveId c.regAddr c.regCount) 1 (by rfl) (by exact hr)
      (by exact hw) (by exact hready) (by exact hdrain) (by rfl)
      (fun i hi => by exact (aduRead_staged ..).trans (if_pos hi)),
    run_succ_of_exec (p := .rxArm) (exec_rxArm_of_now (by exact hnow)) (by rfl) (by exact hr) (by exact hw)]
  refine ⟨_, rfl, rfl, ?_, rfl, rfl, rfl, rfl, rfl, rfl, rfl, rfl, abstracts_start rfl rfl rfl, rfl, ?_⟩
  · simp only [List.append_assoc]
    rfl
  · simp [hc]

end Sys2Proof.Machine
end

section
/-! PROOFS. The receive parser phase by phase (spec 43_receive_parser R141 to R146; 60_exceptions R175 to R178, R190): what
each phase does where it goes on, with the answers and the bytes it asks for there. -/

namespace Sys2Proof.Machine

/-- Settles O25: with a sample of the clock there, the phase takes it. -/
theorem rxArmStartsTheDeadline : Obligations.RxArmStartsTheDeadline := fun _ _ _ h => exec_rxArm_of_now h

/-! ### RX_POLL -/

section RxPoll
variable {s : State} {b : Byte} {rest : List PollAnswer}

theorem storeByte_of_room (h : s.t.cursor.toNat < aduCap) :
    storeByte b s = .next { s with
      adu := aduWrite s.adu s.t.cursor.toNat b
      t := { s.t with cursor := s.t.cursor + 1, bytesRemaining := s.t.bytesRemaining - 1 }
      phase := .rxHeader } := by
  have hne : s.t.cursor ≠ 10 := fun hten => by simp [hten, aduCap] at h
  rw [storeByte, if_neg hne, if_pos h]

theorem storeByte_of_full (h : s.t.cursor.toNat = 10) : storeByte b s = .next (raiseAduOverrun s) :=
  if_pos (BitVec.eq_of_toNat_eq h)

/-- A cursor above 10 names no byte (log entry 20). -/
theorem storeByte_of_beyond (h : 10 < s.t.cursor.toNat) : storeByte b s = .fault (.noSuchByte s.t.cursor.toNat) := by
  have hne : s.t.cursor ≠ 10 := fun hten => by simp [hten] at h
  have hcap : ¬ s.t.cursor.toNat < aduCap := Nat.not_lt.2 h.le
  rw [storeByte, if_neg hne, if_neg hcap]

theorem exec_rxPoll_of_none (h : s.env.rx = none :: rest) :
    exec .rxPoll s = .next ((takePoll s none rest).setPhase .rxHeader) := by simp only [exec, execRxPoll, h]

theorem exec_rxPoll_of_byte (h : s.env.rx = some b :: rest) :
    exec .rxPoll s = storeByte b (takePoll s (some b) rest) := by simp only [exec, execRxPoll, h]

end RxPoll

/-- Settles O26: no byte, and the three places of the cursor. -/
theorem rxPollStoresAtMostOneByte : Obligations.RxPollStoresAtMostOneByte := by
  intro s rest
  refine ⟨fun h => exec_rxPoll_of_none h, fun b h => ?_⟩
  rw [exec_rxPoll_of_byte h]
  refine ⟨fun hroom => ?_, fun hfull => storeByte_of_full hfull, fun hbeyond => storeByte_of_beyond hbeyond⟩
  refine ⟨_, storeByte_of_room hroom, ?_, fun k hk => ?_, fun hwf => ?_, ?_, fun hrem => ?_, rfl⟩
  · exact aduRead_aduWrite_same ..
  · exact aduRead_aduWrite_ne _ b hk
  · exact aduWf_aduWrite b hwf hroom
  · exact toNat_index_succ (c := s.t.cursor) (by omega)
  · exact toNat_byte_pred hrem

/-! ### RX_HEADER -/

/-- The mask of R143 picks bit 7. -/
theorem and_exceptionBit_ne_zero {b : Byte} : b &&& 0x80 ≠ 0 ↔ b.getLsbD 7 = true := by
  revert b
  decide

/-- The last check that holds wins (R178): exception over function over address over the status as it was. -/
theorem headerStatus_eq (slave fc b0 b1 : Byte) (st : Status) :
    headerStatus slave fc b0 b1 st =
      if b1 &&& 0x80 ≠ 0 then .modbusException
      else if b1 &&& 0x7F ≠ fc then .incorrectFunction
      else if b0 ≠ slave then .incorrectSlaveId
      else st := rfl

section RxHeader
variable {s : State}

theorem exec_rxHeader_of_five {b0 b1 b2 : Byte} (hfive : s.t.cursor.toNat = 5) (h0 : aduRead s.adu 0 = some b0)
    (h1 : aduRead s.adu 1 = some b1) (h2 : aduRead s.adu 2 = some b2) :
    exec .rxHeader s = .next { s with
      t := { s.t with
        status := headerStatus s.t.slaveId s.t.functionCode b0 b1 s.t.status
        bytesRemaining := declaredCount b2 }
      phase := .rxDeadline } := by
  have hcursor : s.t.cursor = BitVec.ofNat 4 hdrLen := BitVec.eq_of_toNat_eq hfive
  rw [exec, execRxHeader, if_pos hcursor, withAdu_eq _ (by decide) h0, withAdu_eq _ (by decide) h1,
    withAdu_eq _ (by decide) h2]

theorem exec_rxHeader_of_not_five (h : s.t.cursor.toNat ≠ 5) : exec .rxHeader s = .next (s.setPhase .rxDeadline) :=
  if_neg fun hfive => h (congrArg BitVec.toNat hfive)

end RxHeader

/-- Settles O27: five bytes in, or another number. -/
theorem rxHeaderLastCheckWins : Obligations.RxHeaderLastCheckWins := by
  intro s
  refine ⟨fun b0 b1 b2 hfive h0 h1 h2 => ?_, fun h => exec_rxHeader_of_not_five h⟩
  refine ⟨_, exec_rxHeader_of_five hfive h0 h1 h2, ?_, toNat_declaredCount b2, rfl⟩
  simp only [headerStatus_eq, and_exceptionBit_ne_zero]

/-! ### RX_DEADLINE -/

/-- The deadline is strict, and the elapsed time is taken modulo `2^32` (R144). -/
theorem lt_elapsed_iff {start timeout now : Word} :
    timeout < elapsed start now ↔ timeout.toNat < (now.toNat + (2 ^ 32 - start.toNat)) % 2 ^ 32 := by
  rw [elapsed, BitVec.lt_def, BitVec.toNat_sub, Nat.add_comm]

theorem exec_rxDeadline_of_now {s : State} {now : Word} {rest : List Word} (h : s.env.now = now :: rest) :
    exec .rxDeadline s = .next { s with
      t := { s.t with status := deadlineStatus s.t.startMs s.cfg.timeoutMs now s.t.status }
      env := { s.env with now := rest }
      trace := s.trace ++ [.now now]
      phase :=
        if loopContinues s.t.bytesRemaining (deadlineStatus s.t.startMs s.cfg.timeoutMs now s.t.status) then .rxPoll
        else .crcCheck } := by simp only [exec, execRxDeadline, h]

/-- Settles O28: the deadline check and the loop test on the status it leaves. -/
theorem rxDeadlineThenLoopTest : Obligations.RxDeadlineThenLoopTest := by
  intro s now rest h
  refine ⟨_, exec_rxDeadline_of_now h, ?_, ?_, rfl⟩
  · simp only [deadlineStatus, lt_elapsed_iff]
  · simp only [loopContinues_iff]

/-! ### CRC_CHECK -/

/-- A run of bytes that stands at the start of the buffer is read as it stands. -/
theorem aduPrefix_of_aduRead {m : List Host.Cell} {bytes : List Byte} (hcap : bytes.length ≤ aduCap)
    (h : ∀ i < bytes.length, aduRead m i = bytes[i]?) : aduPrefix m bytes.length = .ok bytes := by
  have hread : ∀ i < bytes.length, aduRead m i = some (bytes.getD i 0) := by
    intro i hi
    rw [h i hi, List.getD_eq_getElem bytes 0 hi, List.getElem?_eq_getElem hi]
  rw [aduPrefix_ok (bytes.getD · 0) hcap hread]
  refine congrArg Except.ok (List.ext_getElem (by simp) fun i _ hi => ?_)
  simp [List.getElem?_eq_getElem hi]

section CrcCheck
variable {s : State} {bytes : List Byte}

theorem exec_crcCheck_of_bytes (hok : s.t.status = .ok) (hcursor : s.t.cursor.toNat = bytes.length)
    (hlong : 5 ≤ bytes.length) (hcap : bytes.length ≤ aduCap) (hread : ∀ i < bytes.length, aduRead s.adu i = bytes[i]?) :
    exec .crcCheck s = .next { s with
      t := { s.t with status := crcStatus bytes s.t.status, crc := crc16 (crcBody bytes) }, phase := .decode } := by
  have hcheck : s.t.status = .ok ∧ hdrLen ≤ s.t.cursor.toNat := ⟨hok, hcursor ▸ hlong⟩
  rw [exec, execCrcCheck, if_pos hcheck, withAduPrefix, hcursor, aduPrefix_of_aduRead hcap hread]

theorem exec_crcCheck_skipped (h : s.t.status ≠ .ok ∨ s.t.cursor.toNat < 5) :
    exec .crcCheck s = .next (s.setPhase .decode) :=
  if_neg fun ⟨hok, hlong⟩ => h.elim (fun hno => hno hok) fun hlt => Nat.not_le.2 hlt hlong

end CrcCheck

section Trailer
variable (body : List Byte) (lo hi : Byte)

theorem crcBody_append_pair : crcBody (body ++ [lo, hi]) = body := by simp [crcBody]

/-- The last two bytes, low first (R104, R146). -/
theorem trailerMatches_append_pair : trailerMatches (body ++ [lo, hi]) = true ↔
    lo = (crc16 body).extractLsb' 0 8 ∧ hi = (crc16 body).extractLsb' 8 8 := by
  simp [trailerMatches, crcBody_append_pair, crcTrailer, lo8, hi8]

end Trailer

/-- Settles O29: over OK with five bytes or more the trailer decides; else the phase only moves on. -/
theorem crcCheckComparesTheLastTwoBytes : Obligations.CrcCheckComparesTheLastTwoBytes := by
  intro s
  refine ⟨fun body lo hi hok hcursor hlong hcap hread => ?_, fun h => exec_crcCheck_skipped h⟩
  have hlen : s.t.cursor.toNat = (body ++ [lo, hi]).length := by simpa using hcursor
  rw [hlen] at hlong hcap hread
  rw [exec_crcCheck_of_bytes hok hlen hlong hcap hread, crcBody_append_pair, hok]
  rcases crcStatus_cases hlong with ⟨hm, hst⟩ | ⟨hm, hst⟩
  · rw [hst, if_pos ((trailerMatches_append_pair body lo hi).1 hm)]
  · rw [hst, if_neg (mt (trailerMatches_append_pair body lo hi).2 (Bool.eq_false_iff.1 hm))]

end Sys2Proof.Machine
end

section
/-! PROOFS. The receive loop as a function (spec 43_receive_parser R148, R150, R152; 60_exceptions R189): one iteration is a
poll, the header check and the deadline check; how a run goes on and ends; the length law and the time bound. -/

namespace Sys2Proof.Machine

/-! ### One iteration -/

/-- The loop test of R152. -/
abbrev Loop.Continues (l : Loop) : Prop := l.rem ≠ 0 ∧ l.st = .ok

/-- The answer of the poll enters the buffer, where there is room. -/
def Loop.polled (l : Loop) (r : PollAnswer) : Loop :=
  { l with buf := l.buf ++ r.toList, rem := if r.isSome then l.rem - 1 else l.rem }

/-- With five bytes in, the header check and the reload of the count. -/
def Loop.checked (l : Loop) (slave : Byte) : Loop :=
  { l with
    rem := if l.buf.length = 5 then l.buf.getD 2 0 &&& 0x7F else l.rem
    st := if l.buf.length = 5 then loopHeader slave l.buf l.st else l.st }

/-- The deadline check. -/
def Loop.timed (l : Loop) (timeout t0 now : Word) : Loop :=
  { l with st := if timeout < now - t0 then .timeout else l.st }

/-- An eleventh byte is polled. -/
abbrev Loop.Overruns (l : Loop) (r : PollAnswer) : Prop := r.isSome ∧ l.buf.length = 10

/-- Bytes remain exactly when the count is not 0. -/
theorem toNat_pos_iff {r : Byte} : 0 < r.toNat ↔ r ≠ 0 := by bv_omega

section Iteration
variable {slave : Byte} {timeout t0 now : Word} {l l' : Loop} {r : PollAnswer}

theorem loopStep_of_overrun (h : l.Overruns r) : loopStep slave timeout t0 l (r, now) = none := if_pos h

/-- One iteration of R152 is the poll, the header check and the deadline check, in this order. -/
theorem loopStep_of_room (h : ¬ l.Overruns r) :
    loopStep slave timeout t0 l (r, now) = some (((l.polled r).checked slave).timed timeout t0 now) := if_neg h

theorem loopStep_eq_none : loopStep slave timeout t0 l (r, now) = none ↔ l.Overruns r := by
  refine ⟨fun h => ?_, loopStep_of_overrun⟩
  by_contra hroom
  rw [loopStep_of_room hroom] at h
  nomatch h

theorem loopStep_eq_some (h : loopStep slave timeout t0 l (r, now) = some l') :
    ¬ l.Overruns r ∧ l' = ((l.polled r).checked slave).timed timeout t0 now := by
  by_cases hover : l.Overruns r
  · rw [loopStep_of_overrun hover] at h
    nomatch h
  · rw [loopStep_of_room hover] at h
    exact ⟨hover, (Option.some.inj h).symm⟩

/-- `hdr` of R152 is the header check of RX_HEADER on the first two bytes. -/
theorem loopHeader_eq (slave : Byte) (buf : List Byte) (st : Status) :
    loopHeader slave buf st = headerStatus slave functionCode (buf.getD 0 0) (buf.getD 1 0) st := rfl

theorem polled_none (l : Loop) : l.polled none = l := by simp [Loop.polled]

theorem length_polled (l : Loop) (r : PollAnswer) :
    (l.polled r).buf.length = l.buf.length + if r.isSome then 1 else 0 := by
  cases r <;> simp [Loop.polled]

theorem length_polled_le (h : ¬ l.Overruns r) (hle : l.buf.length ≤ 10) : (l.polled r).buf.length ≤ 10 := by
  rw [length_polled]
  split
  · rename_i hr
    have hne : l.buf.length ≠ 10 := fun hten => h ⟨hr, hten⟩
    omega
  · exact hle

end Iteration

/-! ### The run -/

section Run
variable {slave : Byte} {timeout t0 : Word} {answers : List (PollAnswer × Word)} {a : PollAnswer × Word} {l l' : Loop}
  {k : Nat}

theorem not_continues_iff : ¬ l.Continues ↔ l.rem = 0 ∨ l.st ≠ .ok := by
  rw [Loop.Continues, not_and_or, not_not]

theorem loopRun_of_ended (h : ¬ l.Continues) : loopRun slave timeout t0 answers l = .ended l 0 := by
  cases answers <;> exact if_pos (not_continues_iff.1 h)

theorem loopRun_nil (h : l.Continues) : loopRun slave timeout t0 [] l = .running l :=
  if_neg (mt not_continues_iff.2 (not_not.2 h))

theorem loopRun_cons_of_none (h : l.Continues) (hstep : loopStep slave timeout t0 l a = none) :
    loopRun slave timeout t0 (a :: answers) l = .overrun 1 := by
  rw [loopRun, if_neg (mt not_continues_iff.2 (not_not.2 h))]
  simp only [hstep]

theorem loopRun_cons_of_some (h : l.Continues) (hstep : loopStep slave timeout t0 l a = some l') :
    loopRun slave timeout t0 (a :: answers) l = (loopRun slave timeout t0 answers l').later := by
  rw [loopRun, if_neg (mt not_continues_iff.2 (not_not.2 h))]
  simp only [hstep]

theorem LoopEnd.later_eq_ended {e : LoopEnd} (h : e.later = .ended l k) : ∃ j, e = .ended l j ∧ k = j + 1 := by
  cases e with
  | ended l' j =>
    cases h
    exact ⟨j, rfl, rfl⟩
  | overrun | running => nomatch h

theorem LoopEnd.later_eq_running {e : LoopEnd} (h : e.later = .running l) : e = .running l := by
  cases e with
  | running => exact h
  | ended | overrun => nomatch h

/-- A run that ends after an answer: its iteration did not overrun, and the rest of the run ended. -/
theorem loopRun_cons_eq_ended (hl : l.Continues) (h : loopRun slave timeout t0 (a :: answers) l = .ended l' k) :
    ∃ m j, loopStep slave timeout t0 l a = some m ∧ loopRun slave timeout t0 answers m = .ended l' j ∧ k = j + 1 := by
  cases hstep : loopStep slave timeout t0 l a with
  | none =>
    rw [loopRun_cons_of_none hl hstep] at h
    nomatch h
  | some m =>
    rw [loopRun_cons_of_some hl hstep] at h
    obtain ⟨j, hj, hk⟩ := LoopEnd.later_eq_ended h
    exact ⟨m, j, rfl, hj, hk⟩

/-- A run that goes on after an answer: its iteration did not overrun, and the rest of the run goes on. -/
theorem loopRun_cons_eq_running (hl : l.Continues) (h : loopRun slave timeout t0 (a :: answers) l = .running l') :
    ∃ m, loopStep slave timeout t0 l a = some m ∧ loopRun slave timeout t0 answers m = .running l' := by
  cases hstep : loopStep slave timeout t0 l a with
  | none =>
    rw [loopRun_cons_of_none hl hstep] at h
    nomatch h
  | some m =>
    rw [loopRun_cons_of_some hl hstep] at h
    exact ⟨m, rfl, LoopEnd.later_eq_running h⟩

/-- The induction over a run that ends: what every iteration keeps holds at the end, where the loop test fails. -/
theorem loopRun_ended_induction {P : Loop → Prop}
    (hkeep : ∀ l a m, P l → l.Continues → loopStep slave timeout t0 l a = some m → P m) (hl : P l)
    (h : loopRun slave timeout t0 answers l = .ended l' k) : P l' ∧ ¬ l'.Continues := by
  induction answers generalizing l k with
  | nil =>
    by_cases hc : l.Continues
    · rw [loopRun_nil hc] at h
      nomatch h
    · rw [loopRun_of_ended hc] at h
      cases h
      exact ⟨hl, hc⟩
  | cons a answers ih =>
    by_cases hc : l.Continues
    · obtain ⟨m, j, hstep, hrest, -⟩ := loopRun_cons_eq_ended hc h
      exact ih (hkeep l a m hl hc hstep) hrest
    · rw [loopRun_of_ended hc] at h
      cases h
      exact ⟨hl, hc⟩

end Run

/-! ### The length law -/

/-- `N`, the declared data byte count of the received bytes. -/
def loopDeclared (buf : List Byte) : Nat := (buf.getD 2 0).toNat % 128

/-- One of the three failures of the header check (R143). -/
def HeaderFailure (st : Status) : Prop := st = .incorrectSlaveId ∨ st = .incorrectFunction ∨ st = .modbusException

/-- The invariant behind R150: fewer than five bytes and the count add up to five; from five on they add up to `5 + N`; and
only the iteration with five bytes in leaves a failure of the header. -/
structure LengthLaw (l : Loop) : Prop where
  le_ten : l.buf.length ≤ 10
  short : l.buf.length < 5 → l.buf.length + l.rem.toNat = 5
  long : 5 ≤ l.buf.length → l.buf.length + l.rem.toNat = 5 + loopDeclared l.buf
  status : l.st = .ok ∨ l.st = .timeout ∨ (HeaderFailure l.st ∧ l.buf.length = 5)

section LengthLaw
variable {slave : Byte} {timeout t0 now : Word} {l : Loop} {r : PollAnswer}

theorem lengthLaw_start : LengthLaw Loop.start := ⟨by decide, fun _ => rfl, fun h => absurd h (by decide), .inl rfl⟩

/-- Bytes behind the third leave `N`. -/
theorem loopDeclared_append {buf : List Byte} (more : List Byte) (h : 2 < buf.length) :
    loopDeclared (buf ++ more) = loopDeclared buf := by
  rw [loopDeclared, loopDeclared, List.getD_append _ _ _ _ h]

/-- After the poll the counts add up as before, unless the fifth byte is in. -/
theorem LengthLaw.polled (h : LengthLaw l) (hrem : l.rem ≠ 0) :
    ((l.polled r).buf.length < 5 → (l.polled r).buf.length + (l.polled r).rem.toNat = 5) ∧
      (5 < (l.polled r).buf.length →
        (l.polled r).buf.length + (l.polled r).rem.toNat = 5 + loopDeclared (l.polled r).buf) := by
  cases r with
  | none =>
    rw [polled_none]
    exact ⟨h.short, fun hlt => h.long hlt.le⟩
  | some b =>
    have hpos : 0 < l.rem.toNat := toNat_pos_iff.2 hrem
    have hlen : (l.polled (some b)).buf.length = l.buf.length + 1 := length_polled l (some b)
    have hleft : (l.polled (some b)).rem.toNat = l.rem.toNat - 1 := toNat_byte_pred hpos
    rw [hlen, hleft]
    refine ⟨fun hlt => ?_, fun hlt => ?_⟩
    · have hsum := h.short (by omega)
      omega
    · have hsum := h.long (by omega)
      have hN : loopDeclared (l.polled (some b)).buf = loopDeclared l.buf := loopDeclared_append [b] (by omega)
      omega

/-- The header check reloads the count with `N`. -/
theorem lengthLaw_checked (hle : l.buf.length ≤ 10) (hshort : l.buf.length < 5 → l.buf.length + l.rem.toNat = 5)
    (hlong : 5 < l.buf.length → l.buf.length + l.rem.toNat = 5 + loopDeclared l.buf) (hok : l.st = .ok) :
    LengthLaw (l.checked slave) ∧ (l.checked slave).st ≠ .timeout := by
  by_cases hfive : l.buf.length = 5
  · have hchecked : l.checked slave =
        { l with rem := declaredCount (l.buf.getD 2 0), st := loopHeader slave l.buf .ok } := by
      simp [Loop.checked, hfive, hok, declaredCount]
    rw [hchecked]
    have hst : loopHeader slave l.buf .ok = .ok ∨ HeaderFailure (loopHeader slave l.buf .ok) := by
      rw [loopHeader_eq]
      exact (headerStatus_cases ..).imp_left fun ⟨hst, _⟩ => hst
    refine ⟨⟨hle, fun hlt => absurd hfive hlt.ne, fun _ => ?_, ?_⟩, ?_⟩
    · simp only [toNat_declaredCount, loopDeclared, hfive]
    · exact hst.imp_right fun hfail => .inr ⟨hfail, hfive⟩
    · intro htimeout
      have htimeout : loopHeader slave l.buf .ok = .timeout := htimeout
      simp [htimeout, HeaderFailure] at hst
  · have hchecked : l.checked slave = l := by simp [Loop.checked, hfive]
    rw [hchecked, hok]
    exact ⟨⟨hle, hshort, fun hge => hlong (lt_of_le_of_ne hge (Ne.symm hfive)), .inl hok⟩, nofun⟩

theorem LengthLaw.timed (h : LengthLaw l) : LengthLaw (l.timed timeout t0 now) := by
  refine ⟨h.le_ten, h.short, h.long, ?_⟩
  by_cases hlate : timeout < now - t0
  · simp [Loop.timed, hlate]
  · simpa [Loop.timed, hlate] using h.status

/-- Before its deadline check an iteration leaves the law, and no time-out. -/
theorem LengthLaw.polled_checked (h : LengthLaw l) (hc : l.Continues) (hroom : ¬ l.Overruns r) :
    LengthLaw ((l.polled r).checked slave) ∧ ((l.polled r).checked slave).st ≠ .timeout := by
  obtain ⟨hrem, hok⟩ := hc
  obtain ⟨hshort, hlong⟩ := h.polled (r := r) hrem
  exact lengthLaw_checked (length_polled_le hroom h.le_ten) hshort hlong hok

/-- Every iteration keeps the law. -/
theorem LengthLaw.loopStep {a : PollAnswer × Word} {l' : Loop} (h : LengthLaw l) (hc : l.Continues)
    (hstep : loopStep slave timeout t0 l a = some l') : LengthLaw l' := by
  obtain ⟨hroom, rfl⟩ := loopStep_eq_some hstep
  exact (h.polled_checked hc hroom).1.timed

end LengthLaw

/-- Settles O52: the law holds at the start and every iteration keeps it; where the loop test fails with status OK no byte
remains. -/
theorem loopEndsWithTheLengthLaw : Obligations.LoopEndsWithTheLengthLaw := by
  intro slave timeout t0 answers l k hrun
  obtain ⟨hlaw, hend⟩ := loopRun_ended_induction (fun l a m h hc hstep => h.loopStep hc hstep) lengthLaw_start hrun
  have hle := hlaw.le_ten
  rcases hlaw.status with hok | htimeout | ⟨hfail, hfive⟩
  · have hrem : l.rem.toNat = 0 := by
      rcases not_continues_iff.1 hend with hzero | hno
      · rw [hzero]
        rfl
      · exact absurd hok hno
    have hlong : 5 ≤ l.buf.length := by
      by_contra hlt
      have hsum := hlaw.short (by omega)
      omega
    have hsum : l.buf.length + l.rem.toNat = 5 + (l.buf.getD 2 0).toNat % 128 := hlaw.long hlong
    exact .inl ⟨hok, by omega, by omega⟩
  · refine .inr (.inr ⟨htimeout, hle, fun _ => ?_⟩)
    by_cases hlong : 5 ≤ l.buf.length
    · have hsum : l.buf.length + l.rem.toNat = 5 + (l.buf.getD 2 0).toNat % 128 := hlaw.long hlong
      omega
    · omega
  · exact .inr (.inl ⟨hfail, hfive⟩)

/-! ### The time bound -/

/-- How many more iterations the loop can go on after one at the time `last`: a poll that returns none takes `pollMs` of the
time left, and a byte takes a place of the buffer. -/
def iterationsLeft (pollMs deadline last : Nat) (l : Loop) : Nat := (deadline - last) / pollMs + (10 - l.buf.length)

section TimeBound
variable {slave : Byte} {timeout : Word} {start pollMs d last now : Nat} {l l' : Loop} {r : PollAnswer}

/-- Clear of the wrap, the modular check of R144 is the comparison of the true times. -/
theorem lt_sub_ofNat_iff (hstart : start ≤ now) (hclear : now - start < 2 ^ 32) :
    timeout < BitVec.ofNat 32 now - BitVec.ofNat 32 start ↔ start + timeout.toNat < now := by
  obtain ⟨e, rfl⟩ := Nat.exists_eq_add_of_le hstart
  have helapsed : BitVec.ofNat 32 (start + e) - BitVec.ofNat 32 start = BitVec.ofNat 32 e := by
    rw [BitVec.ofNat_add, BitVec.add_comm, BitVec.add_sub_cancel]
  have hlt : e < 2 ^ 32 := by omega
  rw [helapsed, BitVec.lt_def, BitVec.toNat_ofNat, Nat.mod_eq_of_lt hlt]
  omega

/-- The check of an iteration that was not late before leaves a time-out exactly when the true time is past the timeout. -/
theorem st_eq_timeout_iff (hlaw : LengthLaw l) (hc : l.Continues)
    (hstep : loopStep slave timeout (BitVec.ofNat 32 start) l (r, BitVec.ofNat 32 now) = some l') (hstart : start ≤ now)
    (hclear : now - start < 2 ^ 32) : l'.st = .timeout ↔ start + timeout.toNat < now := by
  obtain ⟨hroom, rfl⟩ := loopStep_eq_some hstep
  obtain ⟨-, hne⟩ := hlaw.polled_checked (slave := slave) hc hroom
  rw [← lt_sub_ofNat_iff hstart hclear, Loop.timed]
  simp [hne]

/-- An iteration in time uses up one of those left: by the time a poll without a byte takes, or by the byte. -/
theorem iterationsLeft_lt {deadline : Nat} (hpoll : 1 ≤ pollMs) (hlast : last ≤ now) (hdeadline : now ≤ deadline)
    (hnone : r = none → last + pollMs ≤ now) (hlen : l'.buf.length = (l.polled r).buf.length)
    (hle : l'.buf.length ≤ 10) : iterationsLeft pollMs deadline now l' < iterationsLeft pollMs deadline last l := by
  rw [length_polled] at hlen
  unfold iterationsLeft
  cases r with
  | none =>
    have hlen : l'.buf.length = l.buf.length := hlen
    have htime : (deadline - now) / pollMs + 1 ≤ (deadline - last) / pollMs := by
      have hnone := hnone rfl
      rw [← Nat.add_div_right _ hpoll]
      exact Nat.div_le_div_right (by omega)
    omega
  | some b =>
    have hlen : l'.buf.length = l.buf.length + 1 := hlen
    have htime : (deadline - now) / pollMs ≤ (deadline - last) / pollMs := Nat.div_le_div_right (by omega)
    omega

/-- At the time `last` the loop goes on and is not late, and the answers to come are those of R189. -/
structure InTime (timeout : Word) (start pollMs d last : Nat) (l : Loop) (answers : List (PollAnswer × Nat)) : Prop where
  law : LengthLaw l
  continues : l.Continues
  started : start ≤ last
  before : last ≤ start + timeout.toNat
  timed : TimedAnswers pollMs d last answers

section InTime
variable {answers : List (PollAnswer × Nat)} {m : Loop} {k : Nat}

/-- One iteration in time: a time-out is past the timeout by at most `pollMs + d`, and a loop that goes on is in time with
one iteration less to go. -/
theorem InTime.loopStep (h : InTime timeout start pollMs d last l ((r, now) :: answers)) (hpoll : 1 ≤ pollMs)
    (hclear : timeout.toNat + pollMs + d < 2 ^ 32)
    (hstep : loopStep slave timeout (BitVec.ofNat 32 start) l (r, BitVec.ofNat 32 now) = some m) :
    (m.st = .timeout → start + timeout.toNat < now ∧ now ≤ start + timeout.toNat + pollMs + d) ∧
      (m.Continues → InTime timeout start pollMs d now m answers ∧
        iterationsLeft pollMs (start + timeout.toNat) now m < iterationsLeft pollMs (start + timeout.toNat) last l) := by
  obtain ⟨hlast, hlate, hnone, htimed⟩ := h.timed
  have hstart := h.started
  have hbefore := h.before
  have hiff := st_eq_timeout_iff h.law h.continues hstep (by omega) (by omega)
  refine ⟨fun htimeout => ⟨hiff.1 htimeout, by omega⟩, fun hc => ?_⟩
  have hlaw : LengthLaw m := h.law.loopStep h.continues hstep
  have hin : now ≤ start + timeout.toNat := by
    refine Nat.le_of_not_lt fun hlt => ?_
    have hboth := hiff.2 hlt
    rw [hc.2] at hboth
    nomatch hboth
  have hlen : m.buf.length = (l.polled r).buf.length := by
    obtain ⟨-, rfl⟩ := loopStep_eq_some hstep
    rfl
  exact ⟨⟨hlaw, hc, by omega, hin, htimed⟩, iterationsLeft_lt hpoll hlast hin hnone hlen hlaw.le_ten⟩

/-- A loop that goes on in time has used up at most the iterations left. -/
theorem InTime.length_le_of_running (h : InTime timeout start pollMs d last l answers) (hpoll : 1 ≤ pollMs)
    (hclear : timeout.toNat + pollMs + d < 2 ^ 32)
    (hrun : loopRun slave timeout (BitVec.ofNat 32 start) (sampled answers) l = .running l') :
    answers.length ≤ iterationsLeft pollMs (start + timeout.toNat) last l := by
  induction answers generalizing last l with
  | nil => exact Nat.zero_le _
  | cons a answers ih =>
    obtain ⟨m, hstep, hrest⟩ := loopRun_cons_eq_running h.continues hrun
    obtain ⟨-, hnext⟩ := h.loopStep hpoll hclear hstep
    by_cases hc : m.Continues
    · obtain ⟨hm, hleft⟩ := hnext hc
      exact (Nat.succ_le_succ (ih hm hrest)).trans hleft
    · rw [loopRun_of_ended hc] at hrest
      nomatch hrest

/-- A loop that goes on in time ends with at most one iteration more than those left, and a time-out in its last answer. -/
theorem InTime.bound_of_ended (h : InTime timeout start pollMs d last l answers) (hpoll : 1 ≤ pollMs)
    (hclear : timeout.toNat + pollMs + d < 2 ^ 32)
    (hrun : loopRun slave timeout (BitVec.ofNat 32 start) (sampled answers) l = .ended l' k) :
    1 ≤ k ∧ k ≤ iterationsLeft pollMs (start + timeout.toNat) last l + 1 ∧
      (l'.st = .timeout →
        ∃ a, answers[k - 1]? = some a ∧ start + timeout.toNat < a.2 ∧ a.2 ≤ start + timeout.toNat + pollMs + d) := by
  induction answers generalizing last l k with
  | nil =>
    rw [sampled, List.map_nil, loopRun_nil h.continues] at hrun
    nomatch hrun
  | cons a answers ih =>
    obtain ⟨m, j, hstep, hrest, rfl⟩ := loopRun_cons_eq_ended h.continues hrun
    obtain ⟨hlate, hnext⟩ := h.loopStep hpoll hclear hstep
    refine ⟨Nat.succ_pos j, ?_⟩
    by_cases hc : m.Continues
    · obtain ⟨hm, hleft⟩ := hnext hc
      obtain ⟨hj, hle, hlast⟩ := ih hm hrest
      refine ⟨by omega, fun htimeout => ?_⟩
      obtain ⟨i, rfl⟩ := Nat.exists_eq_add_of_le' hj
      exact hlast htimeout
    · rw [loopRun_of_ended hc] at hrest
      cases hrest
      exact ⟨Nat.succ_le_succ (Nat.zero_le _), fun htimeout => ⟨a, rfl, hlate htimeout⟩⟩

end InTime

end TimeBound

/-- Settles O53: at its start the loop is in time with `timeout / POLL_MS + 10` iterations left. -/
theorem loopEndsWithinTheBound : Obligations.LoopEndsWithinTheBound := by
  intro slave timeout start pollMs d answers hpoll htimed hclear
  have hstart : InTime timeout start pollMs d start Loop.start answers :=
    ⟨lengthLaw_start, ⟨by decide, rfl⟩, le_rfl, Nat.le_add_right _ _, htimed⟩
  have hleft : iterationsLeft pollMs (start + timeout.toNat) start Loop.start = timeout.toNat / pollMs + 10 := by
    rw [iterationsLeft, Nat.add_sub_cancel_left]
    rfl
  refine ⟨fun hlen l hrun => ?_, fun l k hrun => ?_⟩
  · have hle := hstart.length_le_of_running hpoll hclear hrun
    omega
  · obtain ⟨-, hle, hlast⟩ := hstart.bound_of_ended hpoll hclear hrun
    exact ⟨by omega, hlast⟩

end Sys2Proof.Machine
end

section
/-! PROOFS. The receive loop against the function (spec 43_receive_parser R142 to R147, R152): each phase moves the machine as
its part of an iteration moves `(buf, rem, st)`; the iteration, the status table and the whole loop follow. -/

namespace Sys2Proof.Machine

/-! ### One phase -/

section Phases
variable {l : Loop} {s : State} {r : PollAnswer} {b : Byte} {rx : List PollAnswer} {now : Word} {times : List Word}

/-- Only the counters, the status and the buffer stand for `(buf, rem, st)`. -/
theorem Abstracts.of_eq {t : State} (h : Abstracts l s) (ht : t.t = s.t) (hadu : t.adu = s.adu) : Abstracts l t :=
  ⟨ht ▸ h.cursor, h.fits, hadu ▸ h.bytes, ht ▸ h.remaining, ht ▸ h.status⟩

theorem Abstracts.exec_rxPoll_overrun (h : Abstracts l s) (hrx : s.env.rx = r :: rx) (hover : l.Overruns r) :
    ∃ t, exec .rxPoll s = .next t ∧ t.phase = .fault ∧ t.fault = true ∧ t.adu = s.adu ∧ t.t.cursor.toNat = 10 := by
  obtain ⟨hbyte, hfull⟩ := hover
  obtain ⟨b, rfl⟩ := Option.isSome_iff_exists.1 hbyte
  have hcursor : s.t.cursor.toNat = 10 := h.cursor.trans hfull
  refine ⟨raiseAduOverrun (takePoll s (some b) rx), ?_, rfl, rfl, rfl, hcursor⟩
  rw [exec_rxPoll_of_byte hrx, storeByte_of_full (by exact hcursor)]

/-- A byte at the cursor is the last byte of the buffer. -/
theorem Abstracts.stored {t : State} (h : Abstracts l s) (hroom : l.buf.length < aduCap)
    (hadu : t.adu = aduWrite s.adu s.t.cursor.toNat b)
    (ht : t.t = { s.t with cursor := s.t.cursor + 1, bytesRemaining := s.t.bytesRemaining - 1 }) :
    Abstracts (l.polled (some b)) t := by
  have hlen : (l.polled (some b)).buf.length = l.buf.length + 1 := length_polled l (some b)
  have hcap : l.buf.length < 10 := hroom
  have hcursor := h.cursor
  refine ⟨?_, by rw [hlen]; exact hroom, fun i hi => ?_, ?_, ?_⟩
  · rw [ht, hlen]
    exact (toNat_index_succ (by omega)).trans (by rw [hcursor])
  · rw [hadu, aduRead_aduWrite, hcursor]
    show _ = (l.buf ++ [b])[i]?
    split
    · rename_i hlast
      rw [hlast, List.getElem?_concat_length]
    · have hlt : i < l.buf.length := by omega
      rw [h.bytes i hlt, List.getElem?_append_left hlt]
  · rw [ht, h.remaining]
    rfl
  · rw [ht]
    exact h.status

theorem Abstracts.exec_rxPoll (h : Abstracts l s) (hrx : s.env.rx = r :: rx) (hroom : ¬ l.Overruns r) :
    ∃ t, exec .rxPoll s = .next t ∧ Abstracts (l.polled r) t ∧ t.phase = .rxHeader ∧
      t.env = { s.env with rx := rx } ∧ t.trace = s.trace ++ [.rx r] := by
  cases r with
  | none =>
    rw [polled_none]
    exact ⟨_, exec_rxPoll_of_none hrx, h.of_eq rfl rfl, rfl, rfl, rfl⟩
  | some b =>
    have hlt : l.buf.length < aduCap := lt_of_le_of_ne h.fits fun hten => hroom ⟨rfl, hten⟩
    have hcursor : s.t.cursor.toNat < aduCap := h.cursor ▸ hlt
    rw [exec_rxPoll_of_byte hrx, storeByte_of_room (by exact hcursor)]
    exact ⟨_, rfl, h.stored hlt rfl rfl, rfl, rfl, rfl⟩

/-- A received byte is in the buffer. -/
theorem Abstracts.aduRead_eq (h : Abstracts l s) {i : Nat} (hi : i < l.buf.length) :
    aduRead s.adu i = some (l.buf.getD i 0) := by
  rw [h.bytes i hi, List.getD_eq_getElem _ _ hi, List.getElem?_eq_getElem hi]

theorem Abstracts.exec_rxHeader (h : Abstracts l s) (hfunction : s.t.functionCode = functionCode) :
    ∃ t, exec .rxHeader s = .next t ∧ Abstracts (l.checked s.t.slaveId) t ∧ t.phase = .rxDeadline ∧ t.env = s.env ∧
      t.trace = s.trace := by
  by_cases hfive : l.buf.length = 5
  · have hread {i : Nat} (hi : i < 5) : aduRead s.adu i = some (l.buf.getD i 0) := h.aduRead_eq (hfive ▸ hi)
    have hexec := exec_rxHeader_of_five (h.cursor.trans hfive) (hread (by decide)) (hread (by decide)) (hread (by decide))
    refine ⟨_, hexec, ⟨h.cursor, h.fits, h.bytes, ?_, ?_⟩, rfl, rfl, rfl⟩
    · exact (if_pos hfive).symm
    · rw [hfunction, h.status]
      exact (if_pos hfive).symm
  · have hchecked : l.checked s.t.slaveId = l := by simp [Loop.checked, hfive]
    rw [hchecked]
    exact ⟨_, exec_rxHeader_of_not_five (h.cursor ▸ hfive), h.of_eq rfl rfl, rfl, rfl, rfl⟩

/-- The loop test of RX_DEADLINE is that of R152. -/
theorem loopContinues_eq_true (l : Loop) : loopContinues l.rem l.st = true ↔ l.Continues := by
  rw [loopContinues_iff, toNat_pos_iff]

theorem Abstracts.exec_rxDeadline (h : Abstracts l s) (hnow : s.env.now = now :: times) :
    ∃ t, exec .rxDeadline s = .next t ∧ Abstracts (l.timed s.cfg.timeoutMs s.t.startMs now) t ∧
      t.phase = (if (l.timed s.cfg.timeoutMs s.t.startMs now).Continues then .rxPoll else .crcCheck) ∧
      t.env = { s.env with now := times } ∧ t.trace = s.trace ++ [.now now] := by
  have hst : deadlineStatus s.t.startMs s.cfg.timeoutMs now s.t.status =
      (l.timed s.cfg.timeoutMs s.t.startMs now).st := by
    rw [h.status]
    rfl
  refine ⟨_, exec_rxDeadline_of_now hnow, ⟨h.cursor, h.fits, h.bytes, h.remaining, hst⟩, ?_, rfl, rfl⟩
  rw [hst, h.remaining]
  simp only [← loopContinues_eq_true]
  rfl

end Phases

/-! ### One iteration -/

/-- What the phases of the receive loop leave as it is, of what they read and of the outputs. -/
structure LoopKeeps (s t : State) : Prop where
  cfg : t.cfg = s.cfg
  txEn : t.txEn = s.txEn
  slaveId : t.t.slaveId = s.t.slaveId
  functionCode : t.t.functionCode = s.t.functionCode
  startMs : t.t.startMs = s.t.startMs

section Iteration
variable {s t u : State} {l l' : Loop} {r : PollAnswer} {n : Word} {rx : List PollAnswer} {now : List Word}

theorem LoopKeeps.trans (h : LoopKeeps s t) (h' : LoopKeeps t u) : LoopKeeps s u :=
  ⟨h'.cfg.trans h.cfg, h'.txEn.trans h.txEn, h'.slaveId.trans h.slaveId, h'.functionCode.trans h.functionCode,
    h'.startMs.trans h.startMs⟩

theorem loopKeeps_of_exec {i : Instr} (hi : i = .rxPoll ∨ i = .rxHeader ∨ i = .rxDeadline) (h : exec i s = .next t) :
    LoopKeeps s t := by
  have hf := exec_frame h
  rcases hi with rfl | rfl | rfl <;> rw [hf] <;> exact ⟨rfl, rfl, rfl, rfl, rfl⟩

/-- An eleventh byte leads to FAULT in one step. -/
theorem Abstracts.overrun (h : Abstracts l s) (hready : LoopReady s (r :: rx) (n :: now))
    (hstep : loopStep s.t.slaveId s.cfg.timeoutMs s.t.startMs l (r, n) = none) :
    ∃ t, core.run 1 s = .next t ∧ t.phase = .fault ∧ t.fault = true ∧ t.adu = s.adu ∧ t.t.cursor.toNat = 10 := by
  obtain ⟨t, he, ht⟩ := h.exec_rxPoll_overrun hready.rx (loopStep_eq_none.1 hstep)
  exact ⟨t, run_succ_of_exec (p := .rxPoll) he hready.phase hready.rst hready.wire 0, ht⟩

/-- The three phases are one iteration. -/
theorem Abstracts.iteration (h : Abstracts l s) (hready : LoopReady s (r :: rx) (n :: now))
    (hstep : loopStep s.t.slaveId s.cfg.timeoutMs s.t.startMs l (r, n) = some l') :
    ∃ t, core.run 3 s = .next t ∧ Abstracts l' t ∧ t.phase = (if l'.Continues then .rxPoll else .crcCheck) ∧
      t.env = { s.env with rx := rx, now := now } ∧ t.trace = s.trace ++ [.rx r, .now n] ∧ LoopKeeps s t := by
  obtain ⟨hroom, rfl⟩ := loopStep_eq_some hstep
  obtain ⟨s₁, he₁, habs₁, hp₁, henv₁, htrace₁⟩ := h.exec_rxPoll hready.rx hroom
  have hkeep₁ := loopKeeps_of_exec (.inl rfl) he₁
  obtain ⟨s₂, he₂, habs₂, hp₂, henv₂, htrace₂⟩ := habs₁.exec_rxHeader (hkeep₁.functionCode.trans hready.function)
  have hkeep₂ := hkeep₁.trans (loopKeeps_of_exec (.inr (.inl rfl)) he₂)
  have hnow : s₂.env.now = n :: now := by rw [henv₂, henv₁]; exact hready.now
  obtain ⟨t, he₃, habs₃, hp₃, henv₃, htrace₃⟩ := habs₂.exec_rxDeadline hnow
  rw [hkeep₁.slaveId, hkeep₂.cfg, hkeep₂.startMs] at habs₃ hp₃
  have hrst₁ : s₁.env.rst = [] := by rw [henv₁]; exact hready.rst
  have hwire₁ : s₁.env.wire = [] := by rw [henv₁]; exact hready.wire
  refine ⟨t, ?_, habs₃, hp₃, ?_, ?_, hkeep₂.trans (loopKeeps_of_exec (.inr (.inr rfl)) he₃)⟩
  · rw [run_succ_of_exec (p := .rxPoll) he₁ hready.phase hready.rst hready.wire,
      run_succ_of_exec (p := .rxHeader) he₂ hp₁ hrst₁ hwire₁,
      run_succ_of_exec (p := .rxDeadline) he₃ hp₂ (henv₂ ▸ hrst₁) (henv₂ ▸ hwire₁)]
    rfl
  · rw [henv₃, henv₂, henv₁]
  · rw [htrace₃, htrace₂, htrace₁, List.append_assoc]
    rfl

end Iteration

/-- Settles O49: an iteration that overruns is one step, any other three. -/
theorem iterationMatchesTheBigStep : Obligations.IterationMatchesTheBigStep := by
  intro s l r n rx now hready habs
  split
  · rename_i hstep
    obtain ⟨t, hrun, hp, hf, hadu, -⟩ := habs.overrun hready hstep
    exact ⟨t, hrun, hp, hf, hadu⟩
  · rename_i l' hstep
    obtain ⟨t, hrun, habs', hp, henv, htrace, hkeep⟩ := habs.iteration hready hstep
    exact ⟨t, hrun, habs', hp, henv, htrace, hkeep.cfg, hkeep.txEn, hkeep.slaveId, hkeep.functionCode, hkeep.startMs⟩

/-- Settles O51: the iteration with the fifth byte checks the header over OK, and then the deadline. -/
theorem fifthByteStatusTable : Obligations.FifthByteStatusTable := by
  intro s b0 b1 b2 b3 b4 n rx now hready habs
  obtain ⟨t, hrun, habs', -⟩ := habs.iteration hready (loopStep_of_room (by simp))
  have hst : t.t.status =
      deadlineStatus s.t.startMs s.cfg.timeoutMs n (headerStatus s.t.slaveId functionCode b0 b1 .ok) := habs'.status
  refine ⟨t, hrun, ?_⟩
  rw [hst, headerStatus_eq]
  rfl

/-! ### The whole loop -/

/-- A run goes on where a shorter run has led. -/
theorem run_add_of_run {s t : State} {j : Nat} (h : core.run j s = .next t) (k : Nat) :
    core.run (j + k) s = core.run k t := by
  induction j generalizing s with
  | zero =>
    cases h
    rw [Nat.zero_add]
  | succ j ih =>
    rw [Nat.add_right_comm]
    cases hs : step s with
    | next u =>
      rw [run_succ_of_step hs] at h ⊢
      exact ih h
    | fault f =>
      rw [run_succ_of_fault hs] at h
      nomatch h
    | refused f =>
      rw [run_succ_of_refusal hs] at h
      nomatch h

/-- Where the machine stands when the function stands at `e`: behind the loop, in FAULT, or at the head of the loop. -/
def LoopReaches (s : State) (answers : List (PollAnswer × Word)) (rx : List PollAnswer) (now : List Word) (e : LoopEnd) :
    Prop :=
  match e with
  | .ended l k =>
    ∃ t, core.run (3 * k) s = .next t ∧ t.phase = .crcCheck ∧ Abstracts l t ∧
      t.env = { s.env with rx := (answers.drop k).map Prod.fst ++ rx, now := (answers.drop k).map Prod.snd ++ now }
  | .overrun k =>
    1 ≤ k ∧ ∃ t, core.run (3 * (k - 1) + 1) s = .next t ∧ t.phase = .fault ∧ t.fault = true ∧ t.t.cursor.toNat = 10
  | .running l => ∃ t, core.run (3 * answers.length) s = .next t ∧ t.phase = .rxPoll ∧ Abstracts l t

section WholeLoop
variable {s t : State} {l : Loop} {a : PollAnswer × Word} {answers : List (PollAnswer × Word)} {rx : List PollAnswer}
  {now : List Word} {e : LoopEnd}

/-- What is reached after an iteration is reached three steps earlier with one answer more. -/
theorem LoopReaches.later (h : LoopReaches t answers rx now e) (hrun : core.run 3 s = .next t)
    (henv : ∃ rx' now', t.env = { s.env with rx := rx', now := now' }) : LoopReaches s (a :: answers) rx now e.later := by
  cases e with
  | ended l k =>
    obtain ⟨u, hu, hp, habs, hu'⟩ := h
    obtain ⟨rx', now', henv⟩ := henv
    refine ⟨u, ?_, hp, habs, by rw [hu', henv]; rfl⟩
    rw [Nat.mul_succ, Nat.add_comm, run_add_of_run hrun, hu]
  | overrun k =>
    obtain ⟨hk, u, hu, hfault⟩ := h
    refine ⟨Nat.succ_pos k, u, ?_, hfault⟩
    rw [show 3 * (k + 1 - 1) + 1 = 3 + (3 * (k - 1) + 1) by omega, run_add_of_run hrun, hu]
  | running l =>
    obtain ⟨u, hu, hp, habs⟩ := h
    refine ⟨u, ?_, hp, habs⟩
    rw [List.length_cons, Nat.mul_succ, Nat.add_comm, run_add_of_run hrun, hu]

/-- From the head of the loop the machine goes where the function goes; by induction on the answers. -/
theorem loopReaches_loopRun (hready : LoopReady s (answers.map Prod.fst ++ rx) (answers.map Prod.snd ++ now))
    (habs : Abstracts l s) (hc : l.Continues) :
    LoopReaches s answers rx now (loopRun s.t.slaveId s.cfg.timeoutMs s.t.startMs answers l) := by
  induction answers generalizing s l with
  | nil =>
    rw [loopRun_nil hc]
    exact ⟨s, rfl, hready.phase, habs⟩
  | cons a answers ih =>
    cases hstep : loopStep s.t.slaveId s.cfg.timeoutMs s.t.startMs l a with
    | none =>
      obtain ⟨t, hrun, hp, hf, -, hcursor⟩ := habs.overrun hready hstep
      rw [loopRun_cons_of_none hc hstep]
      exact ⟨le_rfl, t, hrun, hp, hf, hcursor⟩
    | some l' =>
      obtain ⟨t, hrun, habs', hp, henv, -, hkeep⟩ := habs.iteration hready hstep
      rw [loopRun_cons_of_some hc hstep]
      refine LoopReaches.later (t := t) ?_ hrun ⟨_, _, henv⟩
      by_cases hc' : l'.Continues
      · rw [if_pos hc'] at hp
        have hready' : LoopReady t (answers.map Prod.fst ++ rx) (answers.map Prod.snd ++ now) := by
          refine ⟨hp, hkeep.functionCode.trans hready.function, ?_, ?_, by rw [henv]; rfl, by rw [henv]; rfl⟩
          · rw [henv]
            exact hready.rst
          · rw [henv]
            exact hready.wire
        rw [← hkeep.slaveId, ← hkeep.cfg, ← hkeep.startMs]
        exact ih hready' habs' hc'
      · rw [if_neg hc'] at hp
        rw [loopRun_of_ended hc']
        exact ⟨t, rfl, hp, habs', by rw [henv]; rfl⟩

/-- `st_final` is the status after CRC_CHECK, which over OK has at least five bytes by the length law (R150). -/
theorem loopFinal_eq_crcStatus (h : l.st = .ok → 5 ≤ l.buf.length) : loopFinal l = crcStatus l.buf l.st := by
  by_cases hok : l.st = .ok
  · have hlong : hdrLen ≤ l.buf.length := h hok
    have hfails : trailerMatches l.buf = false ↔
        l.buf.drop (l.buf.length - 2) ≠ crcTrailer (l.buf.take (l.buf.length - 2)) := decide_eq_false_iff_not
    simp only [loopFinal, crcStatus, hok, hlong, hfails, true_and]
  · simp [loopFinal, crcStatus, hok]

theorem Abstracts.exec_crcCheck (habs : Abstracts l s) (h : l.st = .ok → 5 ≤ l.buf.length) :
    ∃ t, exec .crcCheck s = .next t ∧ t.phase = .decode ∧ t.t.status = loopFinal l ∧ t.t.cursor = s.t.cursor ∧
      t.adu = s.adu ∧ t.env = s.env := by
  rw [loopFinal_eq_crcStatus h]
  by_cases hok : l.st = .ok
  · have hexec := exec_crcCheck_of_bytes (habs.status.trans hok) habs.cursor (h hok) habs.fits habs.bytes
    refine ⟨_, hexec, rfl, ?_, rfl, rfl, rfl⟩
    exact congrArg (crcStatus l.buf) habs.status
  · have hst : s.t.status ≠ .ok := habs.status ▸ hok
    refine ⟨_, exec_crcCheck_skipped (.inl hst), rfl, ?_, rfl, rfl, rfl⟩
    rw [setPhase_t, habs.status, crcStatus, if_neg fun hall => hok hall.1]

end WholeLoop

/-- Settles O50: the loop as the function runs, and CRC_CHECK where it ends; over OK at least five bytes are in there. -/
theorem loopMatchesTheBigStep : Obligations.LoopMatchesTheBigStep := by
  intro s answers rx now hready habs
  have hreach := loopReaches_loopRun hready habs ⟨by decide, rfl⟩
  cases hrun : loopRun s.t.slaveId s.cfg.timeoutMs s.t.startMs answers Loop.start with
  | ended l k =>
    rw [hrun] at hreach
    obtain ⟨u, hu, hp, habs', henv⟩ := hreach
    have hlong : l.st = .ok → 5 ≤ l.buf.length := by
      intro hok
      rcases loopEndsWithTheLengthLaw _ _ _ _ _ _ hrun with ⟨-, hlen, -⟩ | ⟨hfail, -⟩ | ⟨hfail, -⟩
      · omega
      · simp [hok] at hfail
      · simp [hok] at hfail
    obtain ⟨t, he, hpt, hst, hcursor, hadu, henvt⟩ := habs'.exec_crcCheck hlong
    have hrst : u.env.rst = [] := by rw [henv]; exact hready.rst
    have hwire : u.env.wire = [] := by rw [henv]; exact hready.wire
    refine ⟨t, ?_, hpt, hst, hcursor ▸ habs'.cursor, hadu ▸ habs'.bytes, ?_, ?_⟩
    · rw [run_add_of_run hu]
      exact run_succ_of_exec (p := .crcCheck) he hp hrst hwire 0
    · rw [henvt, henv]
    · rw [henvt, henv]
  | overrun k =>
    rw [hrun] at hreach
    exact hreach
  | running l =>
    rw [hrun] at hreach
    exact hreach

end Sys2Proof.Machine
end

section
/-! PROOFS. The register decoder (spec 44_response_decoder R161 to R165): a register and a pair of registers are their bytes
one after the other; phase DECODE answers with them, with the sentinel, or with any value. -/

namespace Sys2Proof.Machine

/-! ### Bytes as registers -/

/-- A value shifted over the bits of another, as the pseudocode of R161 and R162 writes it, is put in front of it. -/
theorem setWidth_shiftLeft_or_setWidth {v w : Nat} (x : BitVec v) (y : BitVec w) :
    x.setWidth (v + w) <<< w ||| y.setWidth (v + w) = x ++ y := by
  rw [← BitVec.setWidth_append_eq_shiftLeft_setWidth_or, BitVec.setWidth_eq]

theorem setWidth_append_bytes (hi lo : Byte) : (hi ++ lo).setWidth 32 = 0#16 ++ hi ++ lo := by
  have hhi : hi.setWidth 24 = 0#16 ++ hi := BitVec.setWidth_eq_append (by decide)
  have hsplit : (hi ++ lo).setWidth (24 + 8) = hi.setWidth 24 ++ lo.setWidth 8 := BitVec.setWidth_append_of_eq rfl
  rw [hsplit, hhi, BitVec.setWidth_eq]

theorem registerOf_eq (be : Bool) (d0 d1 : Byte) : registerOf be d0 d1 = if be then d0 ++ d1 else d1 ++ d0 := by
  rw [registerOf, ← setWidth_shiftLeft_or_setWidth d0 d1, ← setWidth_shiftLeft_or_setWidth d1 d0]

theorem combine_eq (sw : Bool) (h l : Half) : combine sw h l = if sw then l ++ h else h ++ l := by
  rw [combine, ← setWidth_shiftLeft_or_setWidth l h, ← setWidth_shiftLeft_or_setWidth h l]

theorem decode16_eq (d0 d1 : Byte) (be : Bool) :
    decode16 d0 d1 be = if be then 0#16 ++ d0 ++ d1 else 0#16 ++ d1 ++ d0 := by
  rw [decode16, registerOf_eq]
  cases be
  · exact setWidth_append_bytes d1 d0
  · exact setWidth_append_bytes d0 d1

theorem decode32_eq (d0 d1 d2 d3 : Byte) (be sw : Bool) :
    decode32 d0 d1 d2 d3 be sw =
      match be, sw with
      | true, false => d0 ++ d1 ++ d2 ++ d3
      | true, true => d2 ++ d3 ++ d0 ++ d1
      | false, false => d1 ++ d0 ++ d3 ++ d2
      | false, true => d3 ++ d2 ++ d1 ++ d0 := by
  rw [decode32, combine_eq, registerOf_eq, registerOf_eq]
  cases be <;> cases sw <;> exact BitVec.append_assoc'

/-- Settles O12: the row returns the register, zero-extended. -/
theorem decode16OrdersTheBytes : Obligations.Decode16OrdersTheBytes := by
  intro s d0 d1 be
  exact congrArg (fun v => returns (.value v) s) (decode16_eq d0 d1 be)

/-- Settles O13: the row returns the two registers, each of them two bytes. -/
theorem decode32OrdersBytesAndRegisters : Obligations.Decode32OrdersBytesAndRegisters := by
  intro s d0 d1 d2 d3 be sw
  exact congrArg (fun v => returns (.value v) s) (decode32_eq d0 d1 d2 d3 be sw)

/-! ### DECODE -/

section DecodePhase
variable {s : State} {b2 : Byte}

theorem exec_decode_of_failed (h : s.t.status ≠ .ok) : exec .decode s = respondWith sentinel s := if_pos h

/-- A count of 1: with two data bytes declared they are read, else the value is any (R163, R165). -/
theorem exec_decode_of_one (hok : s.t.status = .ok) (hone : s.t.regCount = 1) (hb2 : aduRead s.adu 2 = some b2) :
    exec .decode s =
      if 2 ≤ b2.toNat % 128 then
        withAdu s 3 fun d0 => withAdu s 4 fun d1 => respondWith (decode16 d0 d1 s.cfg.bigEndian) s
      else respondUndefined s := by
  rw [exec, execDecode, if_neg (not_not.2 hok), if_pos hone, withAdu_eq _ (by decide) hb2, toNat_declaredCount]

/-- A count of 2: with four data bytes declared they are read, else the value is any (R163, R165). -/
theorem exec_decode_of_two (hok : s.t.status = .ok) (htwo : s.t.regCount = 2) (hb2 : aduRead s.adu 2 = some b2) :
    exec .decode s =
      if 4 ≤ b2.toNat % 128 then
        withAdu s 3 fun d0 => withAdu s 4 fun d1 => withAdu s 5 fun d2 => withAdu s 6 fun d3 =>
          respondWith (decode32 d0 d1 d2 d3 s.cfg.bigEndian s.cfg.regSwap) s
      else respondUndefined s := by
  have hone : s.t.regCount ≠ 1 := by rw [htwo]; decide
  rw [exec, execDecode, if_neg (not_not.2 hok), if_neg hone, if_pos htwo, withAdu_eq _ (by decide) hb2,
    toNat_declaredCount]

theorem exec_decode_of_other_count (hok : s.t.status = .ok) (hone : s.t.regCount ≠ 1) (htwo : s.t.regCount ≠ 2) :
    exec .decode s = respondUndefined s := by
  rw [exec, execDecode, if_neg (not_not.2 hok), if_neg hone, if_neg htwo]

end DecodePhase

/-- Settles O30: a failure gets the sentinel; with enough data bytes declared the phase reads them and decodes them. -/
theorem decodePhaseGivesTheResult : Obligations.DecodePhaseGivesTheResult := by
  intro s
  refine ⟨fun hfailed => exec_decode_of_failed hfailed, fun b2 d0 d1 hok hone hb2 hlong h3 h4 => ?_,
    fun b2 d0 d1 d2 d3 hok htwo hb2 hlong h3 h4 h5 h6 => ?_⟩
  · rw [exec_decode_of_one hok hone hb2, if_pos hlong, withAdu_eq _ (by decide) h3, withAdu_eq _ (by decide) h4]
    exact congrArg (respondWith · s) (decode16_eq ..)
  · rw [exec_decode_of_two hok htwo hb2, if_pos hlong, withAdu_eq _ (by decide) h3, withAdu_eq _ (by decide) h4,
      withAdu_eq _ (by decide) h5, withAdu_eq _ (by decide) h6]
    exact congrArg (respondWith · s) (decode32_eq ..)

/-- Settles O31: each way out of the contract leads to the free value, which leaves the status alone. -/
theorem decodeOutsideTheContractKeepsOk : Obligations.DecodeOutsideTheContractKeepsOk := by
  intro s hok hout
  have hany : exec .decode s = respondUndefined s := by
    rcases hout with ⟨hone, htwo⟩ | ⟨b2, hb2, ⟨hone, hshort⟩ | ⟨htwo, hshort⟩⟩
    · exact exec_decode_of_other_count hok hone htwo
    · rw [exec_decode_of_one hok hone hb2, if_neg (Nat.not_le.2 hshort)]
    · rw [exec_decode_of_two hok htwo hb2, if_neg (Nat.not_le.2 hshort)]
  exact ⟨s.drawResult.setPhase .respond, Config.undefinedResult s.draws, s.draws + 1, hany, hok, rfl⟩

end Sys2Proof.Machine
end

section
/-! PROOFS. Primitives that have not returned (spec 60_exceptions R184, R185, R193): the two timers at the ports pass over
the samples of a wait and answer at the first sample that ends it; a phase whose answer is not there yet is held. -/

namespace Sys2Proof.Machine

/-! ### The timers at the ports -/

/-- A function of a list that passes over each `y` with `P y` at the head passes over a whole prefix of them. -/
theorem apply_append_of_skips {α β : Type} {f : List α → β} {P : α → Prop} {waiting : List α}
    (hskip : ∀ y more, P y → f (y :: more) = f more) (hwaiting : ∀ y ∈ waiting, P y) (more : List α) :
    f (waiting ++ more) = f more := by
  induction waiting with
  | nil => rfl
  | cons y waiting ih =>
    obtain ⟨hy, hwaiting⟩ := List.forall_mem_cons.1 hwaiting
    calc f (y :: (waiting ++ more)) = f (waiting ++ more) := hskip y _ hy
      _ = f more := ih hwaiting

section Poll
variable {pollMs : Nat} {start : Word} {x : RxSample} {more : List RxSample}

theorem pollAtPorts_cons_of_valid (h : x.valid = true) : pollAtPorts pollMs start (x :: more) = some (some x.data) :=
  if_pos h

theorem pollAtPorts_cons_of_expired (h : x.valid = false) (hms : pollMs ≤ (x.ms - start).toNat) :
    pollAtPorts pollMs start (x :: more) = some none := by
  rw [pollAtPorts, if_neg (ne_true_of_eq_false h), elapsed, if_pos hms]

theorem pollAtPorts_cons_of_waiting (h : x.valid = false ∧ (x.ms - start).toNat < pollMs) :
    pollAtPorts pollMs start (x :: more) = pollAtPorts pollMs start more := by
  obtain ⟨hvalid, hms⟩ := h
  rw [pollAtPorts, if_neg (ne_true_of_eq_false hvalid), elapsed, if_neg (Nat.not_le.2 hms)]

end Poll

section Drain
variable {maxMs : Nat} {start : Word} {x : DrainSample} {more : List DrainSample}

theorem drainAtPorts_cons_of_idle (h : x.idle = true) : drainAtPorts maxMs start (x :: more) = some .done := if_pos h

theorem drainAtPorts_cons_of_expired (h : x.idle = false) (hms : maxMs ≤ (x.ms - start).toNat) :
    drainAtPorts maxMs start (x :: more) = some .expired := by
  rw [drainAtPorts, if_neg (ne_true_of_eq_false h), elapsed, if_pos hms]

theorem drainAtPorts_cons_of_waiting (h : x.idle = false ∧ (x.ms - start).toNat < maxMs) :
    drainAtPorts maxMs start (x :: more) = drainAtPorts maxMs start more := by
  obtain ⟨hidle, hms⟩ := h
  rw [drainAtPorts, if_neg (ne_true_of_eq_false hidle), elapsed, if_neg (Nat.not_le.2 hms)]

end Drain

/-- Settles O55: the samples of the wait are passed over, and the next sample decides; with none next nothing is answered. -/
theorem pollTimerAtThePorts : Obligations.PollTimerAtThePorts := by
  intro pollMs start waiting x rest hwaiting
  have hskip : ∀ more, pollAtPorts pollMs start (waiting ++ more) = pollAtPorts pollMs start more :=
    apply_append_of_skips (fun _ _ => pollAtPorts_cons_of_waiting) hwaiting
  refine ⟨fun hvalid => ?_, fun hvalid hms => ?_, ?_⟩
  · rw [hskip, pollAtPorts_cons_of_valid hvalid]
  · rw [hskip, pollAtPorts_cons_of_expired hvalid hms]
  · rw [← List.append_nil waiting, hskip, pollAtPorts]

/-- Settles O56: as for the poll, with `tx_idle` in the place of a byte. -/
theorem drainTimerAtThePorts : Obligations.DrainTimerAtThePorts := by
  intro maxMs start waiting x rest hwaiting
  have hskip : ∀ more, drainAtPorts maxMs start (waiting ++ more) = drainAtPorts maxMs start more :=
    apply_append_of_skips (fun _ _ => drainAtPorts_cons_of_waiting) hwaiting
  refine ⟨fun hidle => ?_, fun hidle hms => ?_, ?_⟩
  · rw [hskip, drainAtPorts_cons_of_idle hidle]
  · rw [hskip, drainAtPorts_cons_of_expired hidle hms]
  · rw [← List.append_nil waiting, hskip, drainAtPorts]

/-! ### Held phases -/

section Held
variable {s : State} {rest : List Bool}

theorem exec_setupCfg_of_no_answer (h : s.env.configure = []) : exec .setupCfg s = hold .setupCfg s := by
  simp only [exec, execSetupCfg, h]

theorem exec_txWrite_of_no_sample (h : s.env.txReady = []) : exec .txWrite s = hold .txWrite s := by
  simp only [exec, execTxWrite, h]

theorem exec_txWrite_of_not_ready (h : s.env.txReady = false :: rest) :
    exec .txWrite s = hold .txWrite { s with env := { s.env with txReady := rest } } := by
  simp only [exec, execTxWrite, h]

theorem exec_txDrain_of_no_answer (h : s.env.drain = []) : exec .txDrain s = hold .txDrain s := by
  simp only [exec, execTxDrain, h]

theorem exec_rxArm_of_no_clock (h : s.env.now = []) : exec .rxArm s = hold .rxArm s := by
  simp only [exec, execRxArm, h]

theorem exec_rxPoll_of_no_answer (h : s.env.rx = []) : exec .rxPoll s = hold .rxPoll s := by
  simp only [exec, execRxPoll, h]

theorem exec_rxDeadline_of_no_clock (h : s.env.now = []) : exec .rxDeadline s = hold .rxDeadline s := by
  simp only [exec, execRxDeadline, h]

theorem exec_respond_of_no_sample (h : s.env.rspReady = []) : exec .respond s = hold .respond s := by
  simp only [exec, execRespond, h]

theorem exec_respond_of_not_ready (h : s.env.rspReady = false :: rest) :
    exec .respond s = hold .respond { s with env := { s.env with rspReady := rest } } := by
  simp only [exec, execRespond, h]

end Held

/-- Settles O33: each of these phases is held, and holding the phase the state is in changes nothing. -/
theorem heldPhasesChangeNothing : Obligations.HeldPhasesChangeNothing := by
  intro s
  refine ⟨fun hp h => ?_, fun hp h => ?_, fun rest hp h => ?_, fun hp h => ?_, fun hp h => ?_, fun hp h => ?_,
    fun hp h => ?_, fun hp h => ?_, fun rest hp h => ?_⟩
  · rw [exec_setupCfg_of_no_answer h, hold_self hp]
  · rw [exec_txWrite_of_no_sample h, hold_self hp]
  · rw [exec_txWrite_of_not_ready h, hold_self (by exact hp)]
  · rw [exec_txDrain_of_no_answer h, hold_self hp]
  · rw [exec_rxArm_of_no_clock h, hold_self hp]
  · rw [exec_rxPoll_of_no_answer h, hold_self hp]
  · rw [exec_rxDeadline_of_no_clock h, hold_self hp]
  · rw [exec_respond_of_no_sample h, hold_self hp]
  · rw [exec_respond_of_not_ready h, hold_self (by exact hp)]

end Sys2Proof.Machine
end

section
/-! PROOFS. Reset (spec 70_reset_and_hazards R200, R201; 10_state R41): a sample 1 of `rst` leads from every phase to the
reset values, and a sample 0 is used up beside the step of the sequencer. -/

namespace Sys2Proof.Machine

section ResetSample
variable {s : State} {rest : List Bool}

/-- Reset leaves every input but its own sample of `rst` where it is (log entry 4). -/
theorem resetBlock_env (hr : s.env.rst = true :: rest) : (resetBlock s).env = { s.env with rst := rest } := by
  simp only [resetBlock, hr, List.tail_cons]

/-- The outputs are read off registers, and reset gives each its value in `State.reset`, whatever the phase was. -/
theorem outputs_resetBlock (s : State) : outputs (resetBlock s) = outputs State.reset := rfl

theorem step_of_rst_false (hr : s.env.rst = false :: rest) :
    step s = perform { s with env := { s.env with rst := rest } } := by
  simp only [step, dropRst, hr, List.tail_cons]

end ResetSample

/-- Settles O36: a sample 1 leads to `resetBlock`, whose registers and outputs are those of `State.reset` (O37). -/
theorem resetActsInEveryPhase : Obligations.ResetActsInEveryPhase := by
  intro s rest
  obtain ⟨hphase, hconfigured, hsetupSeen, htxEn, hfault, houtputs⟩ := resetStateHasTheGivenValues
  refine ⟨fun hr => ?_, step_of_rst_false⟩
  exact ⟨resetBlock s, step_of_rst_true hr, hphase, hconfigured, hsetupSeen, htxEn, hfault,
    (outputs_resetBlock s).trans houtputs, resetBlock_env hr⟩

end Sys2Proof.Machine
end
